-- ==== Sys2Proof/Word.lean ====
section
/-! DEFINITION. The word types of the hardware: XLEN = 32, five-bit register numbers, the immediate and target
fields (spec/00_scope.md R4, spec/30_encoding.md R73). -/

namespace Sys2Proof

/-- A register's contents, an address, an instruction word: 32 bits (R4, `XLEN` and `ILEN`). -/
abbrev Word := BitVec 32

/-- The contents of one memory address (R40). -/
abbrev Byte := BitVec 8

/-- The 16-bit field `i` of an immediate instruction: immediate or offset (R73). -/
abbrev Half := BitVec 16

/-- The number of a general register: a field s, t or d (R73). -/
abbrev Reg := BitVec 5

/-- The shift amount field h, 0 to 31 (R73, R85). -/
abbrev Shamt := BitVec 5

/-- The 26-bit field `i` of J and JAL (R73, R76). -/
abbrev Target := BitVec 26

end Sys2Proof
end

