-- ==== Sys2Proof/Config.lean ====
section
/-! DEFINITION. The implementation parameters of spec/00_scope.md R4 as plain data, the environment `SYSCALL_ENV` of
spec/47_system.md R180 and the free value `any32` of spec/00_scope.md R10. A parameter but `SYSCALL_ENV` is a field of `Config`, held in the machine's state and changed by no step, so that
a statement over every state is a statement over every setting (log 1). -/

namespace Sys2Proof

/-- `BYTE_ORDER` (R43, D3). -/
inductive ByteOrder
  | big
  | little
  deriving DecidableEq, Repr

/-- A range of byte addresses, `base` to `base + size - 1`; `MEM_MAP` and `TEXT` are lists of them (R42, D26). -/
structure Region where
  base : Nat
  size : Nat
  deriving DecidableEq, Repr

/-- `LOGICAL_IMM_EXT`: the upper half of the immediate of ANDI, ORI, XORI (R81, D6); `refuse` is the cautious
treatment of U10, which declines an immediate with bit 15 set. -/
inductive LogicalImmExt
  | zero
  | sign
  | refuse
  deriving DecidableEq, Repr

/-- `LB_EXT`: bits 31:8 of the register LB writes (R151, D7); `draw` is the cautious treatment of U9. -/
inductive LbExt
  | sign
  | zero
  | draw
  deriving DecidableEq, Repr

/-- `MULT_HI`: what MULT and MULTU leave in HI (R145, D9). -/
inductive MultHi
  | highWord
  | unchanged
  | any
  deriving DecidableEq, Repr

/-- `VAR_SHIFT_AMOUNT`: which bits of `$s` SLLV and SRLV use (R161, D21); `refuse` is the cautious treatment of
U11, which declines an amount of 32 or more. -/
inductive VarShiftAmount
  | low5
  | full
  | refuse
  deriving DecidableEq, Repr

/-- `LINK_WHEN_NOT_TAKEN`: whether a BGEZAL or BLTZAL that does not branch writes `$31` (R123, D29); `draw` is the
cautious treatment of U12, either of the two. -/
inductive LinkWhenNotTaken
  | no
  | yes
  | draw
  deriving DecidableEq, Repr

/-- `DIV_UNDEFINED`: the two divisions without a result (R141, D11, D12). -/
inductive DivUndefined
  | anyValue
  | refuse
  deriving DecidableEq, Repr

/-- `DELAY_SLOT_CTI`: a branch or jump executed while `npc` is not `pc + 4` (R133, D20). -/
inductive DelaySlotCti
  | followRules
  | refuse
  deriving DecidableEq, Repr

/-- The setting of R55 for a store whose address lies in `TEXT` (D19, U18). -/
inductive TextStores
  | seen
  | refuse
  deriving DecidableEq, Repr

/-- The parameters of R4. -/
structure Config where
  byteOrder : ByteOrder
  resetPc : Word
  memMap : List Region
  text : List Region
  logicalImmExt : LogicalImmExt
  lbExt : LbExt
  multHi : MultHi
  varShiftAmount : VarShiftAmount
  linkWhenNotTaken : LinkWhenNotTaken
  divUndefined : DivUndefined
  delaySlotCti : DelaySlotCti
  textStores : TextStores
  deriving DecidableEq, Repr

/-- The decided values of R4, for any value of the parameters it leaves open: `DELAY_SLOT_CTI` = `refuse` among them
(D20), and the recommended setting of R55, which refuses stores into `TEXT` (D19). -/
def Config.decided (byteOrder : ByteOrder) (resetPc : Word) (memMap text : List Region) : Config where
  byteOrder := byteOrder
  resetPc := resetPc
  memMap := memMap
  text := text
  logicalImmExt := .zero
  lbExt := .sign
  multHi := .highWord
  varShiftAmount := .low5
  linkWhenNotTaken := .no
  divUndefined := .anyValue
  delaySlotCti := .refuse
  textStores := .refuse

/-- The parameters of `State.reset`: every decided value of R4. DESIGN CHOICE (log 2), unsafe to rest a claim on: the
spec leaves the four arguments open; `0x00001000`, `TEXT` = `0x00001000` to `0x00001FFF` and `big` are the values of
spec/95_test_vectors.md, and all 2^32 addresses hold memory. DESIGN CHOICE (log 11): a store into `TEXT`, which R4 does
not list, is seen by later fetches, the other setting of R55. -/
def Config.initial : Config :=
  { Config.decided .big 0x00001000#32 [⟨0, 4294967296⟩] [⟨0x1000, 0x1000⟩] with textStores := .seen }

/-! ## `SYSCALL_ENV` (R180, D27) -/

/-- What a resumed SYSCALL changed: general registers, HI, LO and memory, never `pc` or `npc` (R180). -/
structure EnvChange where
  regs : List (Reg × Word)
  hi : Option Word
  lo : Option Word
  mem : List (Word × Byte)
  deriving DecidableEq, Repr

/-- An answer of the environment: `Halt(result)` or `Resume(state')` (R180); that the result is a list of words is log
7. -/
inductive EnvAnswer
  | halt (result : List Word)
  | resume (change : EnvChange)
  deriving DecidableEq, Repr, Inhabited

/-- What the environment sees: "every register, HI, LO, pc, npc, memory" (R180). -/
structure EnvView where
  regs : Vector Word 31
  hi : Word
  lo : Word
  pc : Word
  npc : Word
  mem : List Host.Cell
  deriving DecidableEq, Repr

/-- The open function of R180, one for each natural number. It has no body, so a claim about an environment of this
kind holds for every function from what it sees to its answer (log 5). -/
opaque Config.environment : Nat → EnvView → EnvAnswer

/-- The settings of `SYSCALL_ENV` (R4, R180, D27, log 5). -/
inductive Environment
  /-- None is supplied: the default, Halt. -/
  | absent
  /-- Any function of what the environment sees. -/
  | ofState (k : Nat)
  /-- These answers in order, and after them the last one for ever: an environment with a history, or one that always
  gives one answer. -/
  | script (answers : List EnvAnswer) (after : EnvAnswer)
  deriving DecidableEq, Repr

/-- The free value `any32` of R10: a 32-bit value under no law, one for each natural number the machine's draw
counter passes through. It has no body, so a claim holds whatever it is (log 8). -/
opaque Config.anyWord : Nat → Word

end Sys2Proof
end

