-- ==== Sys2Proof/Syntax.lean ====
section
/-! DEFINITION. The instructions: one constructor per row of spec/opcode_table.json, its operands in the order of the
entry's Syntax line (spec/30_encoding.md R90). Don't-care bits are no operands (R79), nor is the unused field s of
SLL (C5). -/

namespace Sys2Proof

/-- The 45 rows of spec/opcode_table.json. -/
inductive Instr
  -- spec/40_arithmetic.md
  | add (d s t : Reg)
  | addi (t s : Reg) (imm : Half)
  | addiu (t s : Reg) (imm : Half)
  | addu (d s t : Reg)
  -- spec/41_logical.md
  | and (d s t : Reg)
  | andi (t s : Reg) (imm : Half)
  -- spec/42_branch_jump.md
  | beq (s t : Reg) (offset : Half)
  | bgez (s : Reg) (offset : Half)
  | bgezal (s : Reg) (offset : Half)
  | bgtz (s : Reg) (offset : Half)
  | blez (s : Reg) (offset : Half)
  | bltz (s : Reg) (offset : Half)
  | bltzal (s : Reg) (offset : Half)
  | bne (s t : Reg) (offset : Half)
  -- spec/43_muldiv.md
  | div (s t : Reg)
  | divu (s t : Reg)
  | j (target : Target)
  | jal (target : Target)
  | jr (s : Reg)
  | lb (t : Reg) (offset : Half) (s : Reg)
  | lui (t : Reg) (imm : Half)
  | lw (t : Reg) (offset : Half) (s : Reg)
  | mfhi (d : Reg)
  | mflo (d : Reg)
  | mult (s t : Reg)
  | multu (s t : Reg)
  /-- The assembler's spelling of the all-zero word (R160, C13); no word decodes to it. -/
  | noop
  | or (d s t : Reg)
  | ori (t s : Reg) (imm : Half)
  | sb (t : Reg) (offset : Half) (s : Reg)
  | sll (d t : Reg) (h : Shamt)
  | sllv (d t s : Reg)
  | slt (d s t : Reg)
  | slti (t s : Reg) (imm : Half)
  | sltiu (t s : Reg) (imm : Half)
  | sltu (d s t : Reg)
  | sra (d t : Reg) (h : Shamt)
  | srl (d t : Reg) (h : Shamt)
  | srlv (d t s : Reg)
  | sub (d s t : Reg)
  | subu (d s t : Reg)
  | sw (t : Reg) (offset : Half) (s : Reg)
  | syscall
  | xor (d s t : Reg)
  | xori (t s : Reg) (imm : Half)
  deriving DecidableEq, Repr

/-- The 45 mnemonics of the Syntax lines (R90). -/
inductive Mnemonic
  | add | addi | addiu | addu | and | andi | beq | bgez | bgezal | bgtz | blez | bltz | bltzal | bne
  | div | divu | j | jal | jr | lb | lui | lw | mfhi | mflo | mult | multu | noop | or | ori | sb
  | sll | sllv | slt | slti | sltiu | sltu | sra | srl | srlv | sub | subu | sw | syscall | xor | xori
  deriving DecidableEq, Repr

end Sys2Proof
end

