-- ==== Sys2Proof/WellFormed.lean ====
section
/-! DEFINITION. The checks on terms: which instruction terms a word stands for (spec/90_conflicts.md C13), and which
assembly lines an assembler accepts, by the operand shapes of spec/30_encoding.md R90 and the ranges of R91. -/

namespace Sys2Proof

/-- A term is well-formed when it is what some word decodes to. Every operand of a constructor is a field of its
exact width, so the one term refused is the alias NOOP, "not an instruction the decoder distinguishes" (C13, R160);
the instruction its word stands for is `.sll 0 0 0`. -/
def Instr.wellFormed : Instr → Bool
  | .noop => false
  | .add .. | .addi .. | .addiu .. | .addu .. | .and .. | .andi .. | .beq .. | .bgez .. | .bgezal .. | .bgtz ..
  | .blez .. | .bltz .. | .bltzal .. | .bne .. | .div .. | .divu .. | .j .. | .jal .. | .jr .. | .lb .. | .lui ..
  | .lw .. | .mfhi .. | .mflo .. | .mult .. | .multu .. | .or .. | .ori .. | .sb .. | .sll .. | .sllv .. | .slt ..
  | .slti .. | .sltiu .. | .sltu .. | .sra .. | .srl .. | .srlv .. | .sub .. | .subu .. | .sw .. | .syscall
  | .xor .. | .xori .. => true

/-- What one operand of a Syntax line denotes (R91). -/
inductive OperandKind
  | reg
  | shamt
  | signed16
  | unsigned16
  | target
  deriving DecidableEq, Repr

/-- The range of R91: exactly what the field can express under the instruction's extension (D35). -/
def OperandKind.admits : OperandKind → Int → Bool
  | .reg, n => decide (0 ≤ n ∧ n ≤ 31)
  | .shamt, n => decide (0 ≤ n ∧ n ≤ 31)
  | .signed16, n => decide (-32768 ≤ n ∧ n ≤ 32767)
  | .unsigned16, n => decide (0 ≤ n ∧ n ≤ 65535)
  | .target, n => decide (0 ≤ n ∧ n ≤ 67108863)

/-- The operands of each Syntax line in the order written (the table of R90). -/
def Mnemonic.shape : Mnemonic → List OperandKind
  | .add | .addu | .and | .or | .slt | .sltu | .sub | .subu | .xor => [.reg, .reg, .reg]
  | .addi | .addiu | .slti | .sltiu => [.reg, .reg, .signed16]
  | .andi | .ori | .xori => [.reg, .reg, .unsigned16]
  | .sll | .sra | .srl => [.reg, .reg, .shamt]
  | .sllv | .srlv => [.reg, .reg, .reg]
  | .div | .divu | .mult | .multu => [.reg, .reg]
  | .mfhi | .mflo => [.reg]
  | .lui => [.reg, .unsigned16]
  | .lb | .lw | .sb | .sw => [.reg, .signed16, .reg]
  | .beq | .bne => [.reg, .reg, .signed16]
  | .bgez | .bgezal | .bgtz | .blez | .bltz | .bltzal => [.reg, .signed16]
  | .j | .jal => [.target]
  | .jr => [.reg]
  | .noop | .syscall => []

/-- One line of assembly: a mnemonic and the numbers its operands denote (R91; characters of text are left out,
log 22). -/
structure AsmLine where
  mnemonic : Mnemonic
  operands : List Int
  deriving DecidableEq, Repr

/-- Each operand is one its place admits, and there are as many as the Syntax line has. -/
def operandsAdmitted : List OperandKind → List Int → Bool
  | [], [] => true
  | k :: ks, n :: ns => k.admits n && operandsAdmitted ks ns
  | [], _ :: _ => false
  | _ :: _, [] => false

/-- The lines an assembler accepts; it "refuses anything else" (R91). -/
def AsmLine.wellFormed (l : AsmLine) : Bool :=
  operandsAdmitted l.mnemonic.shape l.operands

end Sys2Proof
end

