-- ==== Sys2Proof/Decode.lean ====
section
/-! DEFINITION. Decoding, the byte order of a word, and after them the encoder, the mask and match table and the
assembler (spec/30_encoding.md, spec/20_memory.md R43). -/

namespace Sys2Proof

/-! ## Fields of the instruction word (R73) -/

/-- `w[31:26]`. -/
def fieldOp (w : Word) : BitVec 6 := w.extractLsb' 26 6

/-- `w[25:21]`. -/
def fieldS (w : Word) : Reg := w.extractLsb' 21 5

/-- `w[20:16]`: the register field t, and the selector of format RI (R77). -/
def fieldT (w : Word) : Reg := w.extractLsb' 16 5

/-- `w[15:11]`. -/
def fieldD (w : Word) : Reg := w.extractLsb' 11 5

/-- `w[10:6]`. -/
def fieldH (w : Word) : Shamt := w.extractLsb' 6 5

/-- `w[5:0]`. -/
def fieldFunct (w : Word) : BitVec 6 := w.extractLsb' 0 6

/-- `w[15:0]`. -/
def fieldImm (w : Word) : Half := w.extractLsb' 0 16

/-- `w[25:0]`. -/
def fieldTarget (w : Word) : Target := w.extractLsb' 0 26

/-! ## Decoding (R78, R87, R88) -/

/-- Why bytes are no instruction: the cases of R88, and fewer than four bytes (R70). -/
inductive DecodeError
  /-- One of the unused values of op. -/
  | reservedOp
  /-- One of the unused values of funct under op 000000. -/
  | reservedFunct
  /-- One of the unused selectors under op 000001. -/
  | reservedSelector
  /-- A 1 in a bit that the instruction's line fixes at 0. -/
  | fixedBits
  /-- Fewer than the four bytes every instruction has. -/
  | truncated
  deriving DecidableEq, Repr

/-- The check of the fixed zero bits an instruction's line demands (R78, C7). -/
def requireZero (zeroBits : Bool) (i : Instr) : Except DecodeError Instr :=
  if zeroBits then .ok i else .error .fixedBits

/-- op = 000000: the funct table of R87. Fields that a line does not name are not looked at where they are don't-care
(R79; the field s of SLL by C5) and required zero where zeros are printed (C7). -/
def decodeSpecial (w : Word) : Except DecodeError Instr :=
  match fieldFunct w with
  | 0b000000#6 => .ok (.sll (fieldD w) (fieldT w) (fieldH w))
  | 0b000010#6 => .ok (.srl (fieldD w) (fieldT w) (fieldH w))
  | 0b000011#6 => .ok (.sra (fieldD w) (fieldT w) (fieldH w))
  | 0b000100#6 => .ok (.sllv (fieldD w) (fieldT w) (fieldS w))
  | 0b000110#6 => requireZero (fieldH w == 0) (.srlv (fieldD w) (fieldT w) (fieldS w))
  | 0b001000#6 => requireZero (fieldT w == 0 && fieldD w == 0 && fieldH w == 0) (.jr (fieldS w))
  | 0b001100#6 => .ok .syscall
  | 0b010000#6 => requireZero (fieldS w == 0 && fieldT w == 0 && fieldH w == 0) (.mfhi (fieldD w))
  | 0b010010#6 => requireZero (fieldS w == 0 && fieldT w == 0 && fieldH w == 0) (.mflo (fieldD w))
  | 0b011000#6 => requireZero (fieldD w == 0 && fieldH w == 0) (.mult (fieldS w) (fieldT w))
  | 0b011001#6 => requireZero (fieldD w == 0 && fieldH w == 0) (.multu (fieldS w) (fieldT w))
  | 0b011010#6 => requireZero (fieldD w == 0 && fieldH w == 0) (.div (fieldS w) (fieldT w))
  | 0b011011#6 => requireZero (fieldD w == 0 && fieldH w == 0) (.divu (fieldS w) (fieldT w))
  | 0b100000#6 => requireZero (fieldH w == 0) (.add (fieldD w) (fieldS w) (fieldT w))
  | 0b100001#6 => requireZero (fieldH w == 0) (.addu (fieldD w) (fieldS w) (fieldT w))
  | 0b100010#6 => requireZero (fieldH w == 0) (.sub (fieldD w) (fieldS w) (fieldT w))
  | 0b100011#6 => requireZero (fieldH w == 0) (.subu (fieldD w) (fieldS w) (fieldT w))
  | 0b100100#6 => requireZero (fieldH w == 0) (.and (fieldD w) (fieldS w) (fieldT w))
  | 0b100101#6 => requireZero (fieldH w == 0) (.or (fieldD w) (fieldS w) (fieldT w))
  | 0b100110#6 => .ok (.xor (fieldD w) (fieldS w) (fieldT w))
  | 0b101010#6 => requireZero (fieldH w == 0) (.slt (fieldD w) (fieldS w) (fieldT w))
  | 0b101011#6 => requireZero (fieldH w == 0) (.sltu (fieldD w) (fieldS w) (fieldT w))
  | _ => .error .reservedFunct

/-- op = 000001: the selector table of R87. -/
def decodeRegimm (w : Word) : Except DecodeError Instr :=
  match fieldT w with
  | 0b00000#5 => .ok (.bltz (fieldS w) (fieldImm w))
  | 0b00001#5 => .ok (.bgez (fieldS w) (fieldImm w))
  | 0b10000#5 => .ok (.bltzal (fieldS w) (fieldImm w))
  | 0b10001#5 => .ok (.bgezal (fieldS w) (fieldImm w))
  | _ => .error .reservedSelector

/-- The decoding procedure of R78 over the map of R87. -/
def decode (w : Word) : Except DecodeError Instr :=
  match fieldOp w with
  | 0b000000#6 => decodeSpecial w
  | 0b000001#6 => decodeRegimm w
  | 0b000010#6 => .ok (.j (fieldTarget w))
  | 0b000011#6 => .ok (.jal (fieldTarget w))
  | 0b000100#6 => .ok (.beq (fieldS w) (fieldT w) (fieldImm w))
  | 0b000101#6 => .ok (.bne (fieldS w) (fieldT w) (fieldImm w))
  | 0b000110#6 => requireZero (fieldT w == 0) (.blez (fieldS w) (fieldImm w))
  | 0b000111#6 => requireZero (fieldT w == 0) (.bgtz (fieldS w) (fieldImm w))
  | 0b001000#6 => .ok (.addi (fieldT w) (fieldS w) (fieldImm w))
  | 0b001001#6 => .ok (.addiu (fieldT w) (fieldS w) (fieldImm w))
  | 0b001010#6 => .ok (.slti (fieldT w) (fieldS w) (fieldImm w))
  | 0b001011#6 => .ok (.sltiu (fieldT w) (fieldS w) (fieldImm w))
  | 0b001100#6 => .ok (.andi (fieldT w) (fieldS w) (fieldImm w))
  | 0b001101#6 => .ok (.ori (fieldT w) (fieldS w) (fieldImm w))
  | 0b001110#6 => .ok (.xori (fieldT w) (fieldS w) (fieldImm w))
  | 0b001111#6 => .ok (.lui (fieldT w) (fieldImm w))
  | 0b100000#6 => .ok (.lb (fieldT w) (fieldImm w) (fieldS w))
  | 0b100011#6 => .ok (.lw (fieldT w) (fieldImm w) (fieldS w))
  | 0b101000#6 => .ok (.sb (fieldT w) (fieldImm w) (fieldS w))
  | 0b101011#6 => .ok (.sw (fieldT w) (fieldImm w) (fieldS w))
  | _ => .error .reservedOp

/-! ## Byte order (R43, R44) -/

/-- The word assembled from the bytes at `addr`, `addr + 1`, `addr + 2`, `addr + 3` (R43). -/
def wordOfBytes : ByteOrder → Byte → Byte → Byte → Byte → Word
  | .big, b0, b1, b2, b3 => b0 ++ b1 ++ b2 ++ b3
  | .little, b0, b1, b2, b3 => b3 ++ b2 ++ b1 ++ b0

/-- The byte that lies at `addr + i` when the word lies at `addr`, for i = 0 to 3 (R44). -/
def byteOfWord (order : ByteOrder) (w : Word) (i : Nat) : Byte :=
  match order with
  | .big => w.extractLsb' (8 * (3 - i)) 8
  | .little => w.extractLsb' (8 * i) 8

/-- Decoding from memory's bytes, lowest address first: one instruction and the bytes after it (R70, R71). -/
def decodeBytes (order : ByteOrder) : List Byte → Except DecodeError (Instr × List Byte)
  | b0 :: b1 :: b2 :: b3 :: rest =>
    match decode (wordOfBytes order b0 b1 b2 b3) with
    | .ok i => .ok (i, rest)
    | .error e => .error e
  | _ => .error .truncated

/-- The four bytes of a word in memory's order. -/
def bytesOfWord (order : ByteOrder) (w : Word) : List Byte :=
  [byteOfWord order w 0, byteOfWord order w 1, byteOfWord order w 2, byteOfWord order w 3]

/-- The instruction the decoder reads from the low `nbits` bits of `w`, laid out as bytes. The result does not depend
on the order chosen, which is the same on both sides (log 18). -/
def decodeTableWord (nbits w : Nat) : Option Instr :=
  match decodeBytes .big (bytesOfWord .big (BitVec.ofNat 32 (w % 2 ^ nbits))) with
  | .ok (i, _) => some i
  | .error _ => none

/-! ## The encoder (R74 to R77, R87; don't-care bits 0 by R79) -/

/-- Format R (R74), op = 000000. -/
def encodeR (s t d : Reg) (h : Shamt) (funct : BitVec 6) : Word :=
  0b000000#6 ++ s ++ t ++ d ++ h ++ funct

/-- Formats I and RI (R75, R77). -/
def encodeI (op : BitVec 6) (s t : Reg) (imm : Half) : Word :=
  op ++ s ++ t ++ imm

/-- Format J (R76). -/
def encodeJ (op : BitVec 6) (target : Target) : Word :=
  op ++ target

/-- The word an assembler emits (R87). -/
def encode : Instr → Word
  | .add d s t => encodeR s t d 0 0b100000#6
  | .addi t s imm => encodeI 0b001000#6 s t imm
  | .addiu t s imm => encodeI 0b001001#6 s t imm
  | .addu d s t => encodeR s t d 0 0b100001#6
  | .and d s t => encodeR s t d 0 0b100100#6
  | .andi t s imm => encodeI 0b001100#6 s t imm
  | .beq s t offset => encodeI 0b000100#6 s t offset
  | .bgez s offset => encodeI 0b000001#6 s 0b00001#5 offset
  | .bgezal s offset => encodeI 0b000001#6 s 0b10001#5 offset
  | .bgtz s offset => encodeI 0b000111#6 s 0b00000#5 offset
  | .blez s offset => encodeI 0b000110#6 s 0b00000#5 offset
  | .bltz s offset => encodeI 0b000001#6 s 0b00000#5 offset
  | .bltzal s offset => encodeI 0b000001#6 s 0b10000#5 offset
  | .bne s t offset => encodeI 0b000101#6 s t offset
  | .div s t => encodeR s t 0 0 0b011010#6
  | .divu s t => encodeR s t 0 0 0b011011#6
  | .j target => encodeJ 0b000010#6 target
  | .jal target => encodeJ 0b000011#6 target
  | .jr s => encodeR s 0 0 0 0b001000#6
  | .lb t offset s => encodeI 0b100000#6 s t offset
  | .lui t imm => encodeI 0b001111#6 0 t imm
  | .lw t offset s => encodeI 0b100011#6 s t offset
  | .mfhi d => encodeR 0 0 d 0 0b010000#6
  | .mflo d => encodeR 0 0 d 0 0b010010#6
  | .mult s t => encodeR s t 0 0 0b011000#6
  | .multu s t => encodeR s t 0 0 0b011001#6
  | .noop => 0x00000000#32
  | .or d s t => encodeR s t d 0 0b100101#6
  | .ori t s imm => encodeI 0b001101#6 s t imm
  | .sb t offset s => encodeI 0b101000#6 s t offset
  | .sll d t h => encodeR 0 t d h 0b000000#6
  | .sllv d t s => encodeR s t d 0 0b000100#6
  | .slt d s t => encodeR s t d 0 0b101010#6
  | .slti t s imm => encodeI 0b001010#6 s t imm
  | .sltiu t s imm => encodeI 0b001011#6 s t imm
  | .sltu d s t => encodeR s t d 0 0b101011#6
  | .sra d t h => encodeR 0 t d h 0b000011#6
  | .srl d t h => encodeR 0 t d h 0b000010#6
  | .srlv d t s => encodeR s t d 0 0b000110#6
  | .sub d s t => encodeR s t d 0 0b100010#6
  | .subu d s t => encodeR s t d 0 0b100011#6
  | .sw t offset s => encodeI 0b101011#6 s t offset
  | .syscall => encodeR 0 0 0 0 0b001100#6
  | .xor d s t => encodeR s t d 0 0b100110#6
  | .xori t s imm => encodeI 0b001110#6 s t imm

/-! ## The mask and match table (R78) -/

/-- The columns `mask` and `match` of one row of spec/opcode_table.json. -/
structure OpcodeRow where
  mask : Word
  bits : Word
  deriving DecidableEq, Repr

/-- The rows of spec/opcode_table.json. -/
def opcodeRow : Mnemonic → OpcodeRow
  | .add => ⟨0xfc0007ff#32, 0x00000020#32⟩
  | .addi => ⟨0xfc000000#32, 0x20000000#32⟩
  | .addiu => ⟨0xfc000000#32, 0x24000000#32⟩
  | .addu => ⟨0xfc0007ff#32, 0x00000021#32⟩
  | .and => ⟨0xfc0007ff#32, 0x00000024#32⟩
  | .andi => ⟨0xfc000000#32, 0x30000000#32⟩
  | .beq => ⟨0xfc000000#32, 0x10000000#32⟩
  | .bgez => ⟨0xfc1f0000#32, 0x04010000#32⟩
  | .bgezal => ⟨0xfc1f0000#32, 0x04110000#32⟩
  | .bgtz => ⟨0xfc1f0000#32, 0x1c000000#32⟩
  | .blez => ⟨0xfc1f0000#32, 0x18000000#32⟩
  | .bltz => ⟨0xfc1f0000#32, 0x04000000#32⟩
  | .bltzal => ⟨0xfc1f0000#32, 0x04100000#32⟩
  | .bne => ⟨0xfc000000#32, 0x14000000#32⟩
  | .div => ⟨0xfc00ffff#32, 0x0000001a#32⟩
  | .divu => ⟨0xfc00ffff#32, 0x0000001b#32⟩
  | .j => ⟨0xfc000000#32, 0x08000000#32⟩
  | .jal => ⟨0xfc000000#32, 0x0c000000#32⟩
  | .jr => ⟨0xfc1fffff#32, 0x00000008#32⟩
  | .lb => ⟨0xfc000000#32, 0x80000000#32⟩
  | .lui => ⟨0xfc000000#32, 0x3c000000#32⟩
  | .lw => ⟨0xfc000000#32, 0x8c000000#32⟩
  | .mfhi => ⟨0xffff07ff#32, 0x00000010#32⟩
  | .mflo => ⟨0xffff07ff#32, 0x00000012#32⟩
  | .mult => ⟨0xfc00ffff#32, 0x00000018#32⟩
  | .multu => ⟨0xfc00ffff#32, 0x00000019#32⟩
  | .noop => ⟨0xffffffff#32, 0x00000000#32⟩
  | .or => ⟨0xfc0007ff#32, 0x00000025#32⟩
  | .ori => ⟨0xfc000000#32, 0x34000000#32⟩
  | .sb => ⟨0xfc000000#32, 0xa0000000#32⟩
  | .sll => ⟨0xfc00003f#32, 0x00000000#32⟩
  | .sllv => ⟨0xfc00003f#32, 0x00000004#32⟩
  | .slt => ⟨0xfc0007ff#32, 0x0000002a#32⟩
  | .slti => ⟨0xfc000000#32, 0x28000000#32⟩
  | .sltiu => ⟨0xfc000000#32, 0x2c000000#32⟩
  | .sltu => ⟨0xfc0007ff#32, 0x0000002b#32⟩
  | .sra => ⟨0xfc00003f#32, 0x00000003#32⟩
  | .srl => ⟨0xfc00003f#32, 0x00000002#32⟩
  | .srlv => ⟨0xfc0007ff#32, 0x00000006#32⟩
  | .sub => ⟨0xfc0007ff#32, 0x00000022#32⟩
  | .subu => ⟨0xfc0007ff#32, 0x00000023#32⟩
  | .sw => ⟨0xfc000000#32, 0xac000000#32⟩
  | .syscall => ⟨0xfc00003f#32, 0x0000000c#32⟩
  | .xor => ⟨0xfc00003f#32, 0x00000026#32⟩
  | .xori => ⟨0xfc000000#32, 0x38000000#32⟩

/-- "w is instruction M exactly when `w & mask_M == match_M`" (R78). -/
def OpcodeRow.matches (row : OpcodeRow) (w : Word) : Bool :=
  w &&& row.mask == row.bits

/-- The row an instruction belongs to. -/
def Instr.mnemonic : Instr → Mnemonic
  | .add .. => .add
  | .addi .. => .addi
  | .addiu .. => .addiu
  | .addu .. => .addu
  | .and .. => .and
  | .andi .. => .andi
  | .beq .. => .beq
  | .bgez .. => .bgez
  | .bgezal .. => .bgezal
  | .bgtz .. => .bgtz
  | .blez .. => .blez
  | .bltz .. => .bltz
  | .bltzal .. => .bltzal
  | .bne .. => .bne
  | .div .. => .div
  | .divu .. => .divu
  | .j .. => .j
  | .jal .. => .jal
  | .jr .. => .jr
  | .lb .. => .lb
  | .lui .. => .lui
  | .lw .. => .lw
  | .mfhi .. => .mfhi
  | .mflo .. => .mflo
  | .mult .. => .mult
  | .multu .. => .multu
  | .noop => .noop
  | .or .. => .or
  | .ori .. => .ori
  | .sb .. => .sb
  | .sll .. => .sll
  | .sllv .. => .sllv
  | .slt .. => .slt
  | .slti .. => .slti
  | .sltiu .. => .sltiu
  | .sltu .. => .sltu
  | .sra .. => .sra
  | .srl .. => .srl
  | .srlv .. => .srlv
  | .sub .. => .sub
  | .subu .. => .subu
  | .sw .. => .sw
  | .syscall => .syscall
  | .xor .. => .xor
  | .xori .. => .xori

/-! ## Assembly lines (R90 to R92) -/

/-- The operands of an instruction as its Syntax line writes them: field values, the signed ones read as two's
complement (R90, R91). -/
def Instr.operands : Instr → List Int
  | .add d s t => [d.toNat, s.toNat, t.toNat]
  | .addi t s imm => [t.toNat, s.toNat, imm.toInt]
  | .addiu t s imm => [t.toNat, s.toNat, imm.toInt]
  | .addu d s t => [d.toNat, s.toNat, t.toNat]
  | .and d s t => [d.toNat, s.toNat, t.toNat]
  | .andi t s imm => [t.toNat, s.toNat, imm.toNat]
  | .beq s t offset => [s.toNat, t.toNat, offset.toInt]
  | .bgez s offset => [s.toNat, offset.toInt]
  | .bgezal s offset => [s.toNat, offset.toInt]
  | .bgtz s offset => [s.toNat, offset.toInt]
  | .blez s offset => [s.toNat, offset.toInt]
  | .bltz s offset => [s.toNat, offset.toInt]
  | .bltzal s offset => [s.toNat, offset.toInt]
  | .bne s t offset => [s.toNat, t.toNat, offset.toInt]
  | .div s t => [s.toNat, t.toNat]
  | .divu s t => [s.toNat, t.toNat]
  | .j target => [target.toNat]
  | .jal target => [target.toNat]
  | .jr s => [s.toNat]
  | .lb t offset s => [t.toNat, offset.toInt, s.toNat]
  | .lui t imm => [t.toNat, imm.toNat]
  | .lw t offset s => [t.toNat, offset.toInt, s.toNat]
  | .mfhi d => [d.toNat]
  | .mflo d => [d.toNat]
  | .mult s t => [s.toNat, t.toNat]
  | .multu s t => [s.toNat, t.toNat]
  | .noop => []
  | .or d s t => [d.toNat, s.toNat, t.toNat]
  | .ori t s imm => [t.toNat, s.toNat, imm.toNat]
  | .sb t offset s => [t.toNat, offset.toInt, s.toNat]
  | .sll d t h => [d.toNat, t.toNat, h.toNat]
  | .sllv d t s => [d.toNat, t.toNat, s.toNat]
  | .slt d s t => [d.toNat, s.toNat, t.toNat]
  | .slti t s imm => [t.toNat, s.toNat, imm.toInt]
  | .sltiu t s imm => [t.toNat, s.toNat, imm.toInt]
  | .sltu d s t => [d.toNat, s.toNat, t.toNat]
  | .sra d t h => [d.toNat, t.toNat, h.toNat]
  | .srl d t h => [d.toNat, t.toNat, h.toNat]
  | .srlv d t s => [d.toNat, t.toNat, s.toNat]
  | .sub d s t => [d.toNat, s.toNat, t.toNat]
  | .subu d s t => [d.toNat, s.toNat, t.toNat]
  | .sw t offset s => [t.toNat, offset.toInt, s.toNat]
  | .syscall => []
  | .xor d s t => [d.toNat, s.toNat, t.toNat]
  | .xori t s imm => [t.toNat, s.toNat, imm.toNat]

/-- The assembly line that stands for an instruction. -/
def disassemble (i : Instr) : AsmLine := ⟨i.mnemonic, i.operands⟩

/-- A general register's number. -/
def asmReg (n : Int) : Reg := BitVec.ofInt 5 n

/-- An immediate or offset, "encoded as its low 16 bits" (R91). -/
def asmHalf (n : Int) : Half := BitVec.ofInt 16 n

/-- A jump target. -/
def asmTarget (n : Int) : Target := BitVec.ofInt 26 n

/-- A line whose operands are a, b and c. -/
def asm3 (k : Int → Int → Int → Instr) : List Int → Option Instr
  | [a, b, c] => some (k a b c)
  | _ => none

/-- A line whose operands are a and b. -/
def asm2 (k : Int → Int → Instr) : List Int → Option Instr
  | [a, b] => some (k a b)
  | _ => none

/-- A line with one operand. -/
def asm1 (k : Int → Instr) : List Int → Option Instr
  | [a] => some (k a)
  | _ => none

/-- A line without operands. -/
def asm0 (i : Instr) : List Int → Option Instr
  | [] => some i
  | _ :: _ => none

/-- The instruction a line of the right shape names. -/
def assembleOperands : Mnemonic → List Int → Option Instr
  | .add => asm3 fun d s t => .add (asmReg d) (asmReg s) (asmReg t)
  | .addi => asm3 fun t s imm => .addi (asmReg t) (asmReg s) (asmHalf imm)
  | .addiu => asm3 fun t s imm => .addiu (asmReg t) (asmReg s) (asmHalf imm)
  | .addu => asm3 fun d s t => .addu (asmReg d) (asmReg s) (asmReg t)
  | .and => asm3 fun d s t => .and (asmReg d) (asmReg s) (asmReg t)
  | .andi => asm3 fun t s imm => .andi (asmReg t) (asmReg s) (asmHalf imm)
  | .beq => asm3 fun s t offset => .beq (asmReg s) (asmReg t) (asmHalf offset)
  | .bgez => asm2 fun s offset => .bgez (asmReg s) (asmHalf offset)
  | .bgezal => asm2 fun s offset => .bgezal (asmReg s) (asmHalf offset)
  | .bgtz => asm2 fun s offset => .bgtz (asmReg s) (asmHalf offset)
  | .blez => asm2 fun s offset => .blez (asmReg s) (asmHalf offset)
  | .bltz => asm2 fun s offset => .bltz (asmReg s) (asmHalf offset)
  | .bltzal => asm2 fun s offset => .bltzal (asmReg s) (asmHalf offset)
  | .bne => asm3 fun s t offset => .bne (asmReg s) (asmReg t) (asmHalf offset)
  | .div => asm2 fun s t => .div (asmReg s) (asmReg t)
  | .divu => asm2 fun s t => .divu (asmReg s) (asmReg t)
  | .j => asm1 fun target => .j (asmTarget target)
  | .jal => asm1 fun target => .jal (asmTarget target)
  | .jr => asm1 fun s => .jr (asmReg s)
  | .lb => asm3 fun t offset s => .lb (asmReg t) (asmHalf offset) (asmReg s)
  | .lui => asm2 fun t imm => .lui (asmReg t) (asmHalf imm)
  | .lw => asm3 fun t offset s => .lw (asmReg t) (asmHalf offset) (asmReg s)
  | .mfhi => asm1 fun d => .mfhi (asmReg d)
  | .mflo => asm1 fun d => .mflo (asmReg d)
  | .mult => asm2 fun s t => .mult (asmReg s) (asmReg t)
  | .multu => asm2 fun s t => .multu (asmReg s) (asmReg t)
  | .noop => asm0 .noop
  | .or => asm3 fun d s t => .or (asmReg d) (asmReg s) (asmReg t)
  | .ori => asm3 fun t s imm => .ori (asmReg t) (asmReg s) (asmHalf imm)
  | .sb => asm3 fun t offset s => .sb (asmReg t) (asmHalf offset) (asmReg s)
  | .sll => asm3 fun d t h => .sll (asmReg d) (asmReg t) (asmReg h)
  | .sllv => asm3 fun d t s => .sllv (asmReg d) (asmReg t) (asmReg s)
  | .slt => asm3 fun d s t => .slt (asmReg d) (asmReg s) (asmReg t)
  | .slti => asm3 fun t s imm => .slti (asmReg t) (asmReg s) (asmHalf imm)
  | .sltiu => asm3 fun t s imm => .sltiu (asmReg t) (asmReg s) (asmHalf imm)
  | .sltu => asm3 fun d s t => .sltu (asmReg d) (asmReg s) (asmReg t)
  | .sra => asm3 fun d t h => .sra (asmReg d) (asmReg t) (asmReg h)
  | .srl => asm3 fun d t h => .srl (asmReg d) (asmReg t) (asmReg h)
  | .srlv => asm3 fun d t s => .srlv (asmReg d) (asmReg t) (asmReg s)
  | .sub => asm3 fun d s t => .sub (asmReg d) (asmReg s) (asmReg t)
  | .subu => asm3 fun d s t => .subu (asmReg d) (asmReg s) (asmReg t)
  | .sw => asm3 fun t offset s => .sw (asmReg t) (asmHalf offset) (asmReg s)
  | .syscall => asm0 .syscall
  | .xor => asm3 fun d s t => .xor (asmReg d) (asmReg s) (asmReg t)
  | .xori => asm3 fun t s imm => .xori (asmReg t) (asmReg s) (asmHalf imm)

/-- The assembler of R90 and R91: lines outside the accepted ranges are refused; the one pseudo-instruction is
`noop` (R92). -/
def assemble (l : AsmLine) : Option Instr :=
  if l.wellFormed then assembleOperands l.mnemonic l.operands else none

end Sys2Proof
end

