-- ==== Sys2Proof/Machine/State.lean ====
section
/-! DEFINITION. The machine's state (spec/10_state.md R20 to R33), the reasons a step can stop (spec/60_exceptions.md
R190, R202; the refusals are the settings spec/00_scope.md R4 and spec/93_implementation_defined.md name `refuse`), and
the state after reset (spec/10_state.md R31, spec/70_reset_and_hazards.md R220). -/

namespace Sys2Proof.Machine

/-- What an access to memory is for (R190). -/
inductive Access
  | fetch
  | load
  | store
  deriving DecidableEq, Repr

/-- The closed list of fault reasons (R190, R202): a step that raises one has no next state (R196), so the machine's
state is the one before it. A cause is its name; no number is recorded (D37). -/
inductive Fault
  /-- Raised by ADD, ADDI and SUB when the exact signed result does not fit (R191), with the `pc` of the instruction.
  Named by the source; that the run ends here, with no handler, is safe (D25). -/
  | overflow (pc : Word)
  /-- Raised by SYSCALL when the environment answers Halt, the one successful end of a run (R192, R228), with the `pc`
  and the result the environment attached (R180). Safe: nothing is claimed after it. -/
  | syscall (pc : Word) (result : List Word)
  /-- Raised by LW, SW and the fetch when the address is not a multiple of 4 (R193, D4, D5). Safe: a chip that
  completed the access has runs the model lacks. -/
  | addressError (kind : Access) (addr pc : Word)
  /-- Raised by LB, LW, SB, SW and the fetch when a byte of the access lies outside `MEM_MAP` (R195, D26). Safe. -/
  | busError (kind : Access) (addr pc : Word)
  /-- Raised by the step when the fetched word matches no row of the opcode table (R194, D14). Safe. -/
  | reservedInstruction (w pc : Word)
  /-- Raised by LB, LW and the fetch when a byte of the access holds no value (R50, D28): a fault of the model, not a
  trap of the hardware. Safe: the hardware reads some value and goes on. -/
  | unwrittenByte (kind : Access) (addr pc : Word)
  deriving DecidableEq, Repr

/-- The closed list of refusals. But for `notModelled`, each is raised under one setting of `Config` only, named
`refuse` by the spec; `Config.initial` has one of these settings, the decided `DELAY_SLOT_CTI` of R4. All are safe: a
refused step says nothing of the hardware. -/
inductive Refusal
  /-- Raised by an arm of `exec` without a meaning; no arm of this model raises it. -/
  | notModelled (mnemonic : String)
  /-- Raised by the eleven branches and jumps when `npc` is not `pc + 4` and `DELAY_SLOT_CTI = refuse` (R133). -/
  | controlTransferInDelaySlot (pc : Word)
  /-- Raised by DIV and DIVU on a division without a result when `DIV_UNDEFINED = refuse` (R141, D11, D12). -/
  | undefinedDivision (pc : Word)
  /-- Raised by ANDI, ORI and XORI on an immediate with bit 15 set under the cautious treatment of U10. -/
  | logicalImmediateSign (pc : Word)
  /-- Raised by SLLV and SRLV on an amount of 32 or more under the cautious treatment of U11. -/
  | shiftAmount (pc : Word)
  /-- Raised by SB and SW on an address in `TEXT` under the setting `refuse` of R55. -/
  | storeIntoText (addr pc : Word)
  deriving DecidableEq, Repr

/-- Memory: the bytes that hold a value, by address (R30, R40, R50). Canonical form: `Memory.WF` in
Sys2Proof/Machine/Ops.lean. -/
abbrev Memory := List Host.Cell

/-- The complete state (R20), and after it the model's own fields (INVENTORY.md, State). -/
structure State where
  /-- `$1` to `$31`, register r at index r - 1; `$0` holds no state (R20, R21). Read and written by `State.reg` and
  `State.setReg` only. -/
  regs : Vector Word 31
  /-- `HI` (R24). -/
  hi : Word
  /-- `LO` (R24). -/
  lo : Word
  /-- The address of the instruction being executed (R25). -/
  pc : Word
  /-- The address of the instruction that executes next (R26). -/
  npc : Word
  /-- Memory (R30). -/
  mem : Memory
  /-- The model's own: the parameters of R4 (log 1). -/
  cfg : Config
  /-- The model's own: the environment `SYSCALL_ENV` (R4, R180, log 5); of a script, what is left. -/
  env : Environment
  /-- The model's own: how many free values have been used (R10, log 8). -/
  draws : Nat
  deriving DecidableEq, Repr

/-- What a launch supplies (R220, R221): the parameters, values for `$1` to `$31`, HI and LO, the program and data, and
the environment. What R220 asks of it is `Launch.Valid` in Sys2Proof/Machine/Ops.lean. -/
structure Launch where
  cfg : Config
  regs : Vector Word 31
  hi : Word
  lo : Word
  mem : Memory
  env : Environment
  deriving DecidableEq, Repr

/-- The launch state of R220: `pc` at `RESET_PC`, `npc` four after it, the rest as the launch supplies it. -/
def State.launch (l : Launch) : State where
  regs := l.regs
  hi := l.hi
  lo := l.lo
  pc := l.cfg.resetPc
  npc := l.cfg.resetPc + 4
  mem := l.mem
  cfg := l.cfg
  env := l.env
  draws := 0

/-- The launch that supplies nothing: no register value, no program, no environment. `$1` to `$31`, HI and LO hold 0:
DESIGN CHOICE, the spec gives them no value then (R31, R32, log 3). -/
def Launch.bare (cfg : Config) : Launch where
  cfg := cfg
  regs := Vector.replicate 31 0
  hi := 0
  lo := 0
  mem := []
  env := .absent

/-- The machine right after reset: nothing loaded, no environment supplied (R31, R220, log 2, log 4, log 17). -/
def State.reset : State := State.launch (Launch.bare Config.initial)

end Sys2Proof.Machine
end

