-- ==== Sys2Proof/Machine/Ops.lean ====
section
/-! DEFINITION. The named operations over registers, the program counter pair and memory, the taking of an exception
and the return from one (spec/10_state.md, spec/20_memory.md, spec/60_exceptions.md; the primitives of
spec/00_scope.md R10). -/

namespace Sys2Proof.Machine

/-- The outcome of a part of a step: a value, a fault or a refusal. -/
abbrev Res (α : Type) := Host.Outcome α Fault Refusal

/-- One part of a step after another; the first stop ends the step. -/
def andThen {α β : Type} (r : Res α) (k : α → Res β) : Res β :=
  match r with
  | .next a => k a
  | .fault f => .fault f
  | .refused f => .refused f

/-! ## Registers (R20 to R24) -/

/-- `x[r]` (R10): 0 for `$0` (R21, D16). -/
def State.reg (s : State) (r : Reg) : Word :=
  if r = 0 then 0 else (s.regs[r.toNat - 1]?).getD 0

/-- `x[r] <- v` (R10): discarded for `$0` (R21). -/
def State.setReg (s : State) (r : Reg) (v : Word) : State :=
  if r = 0 then s else { s with regs := s.regs.setIfInBounds (r.toNat - 1) v }

/-- Writing `HI` and `LO` together, as MULT, MULTU, DIV and DIVU do (R24). -/
def State.setHiLo (s : State) (hi lo : Word) : State :=
  { s with hi := hi, lo := lo }

/-! ## The program counter pair (R8, R25 to R27) -/

/-- A delayed transfer: `pc <- npc; npc <- target` (R27, R129). -/
def State.jumpTo (s : State) (target : Word) : State :=
  { s with pc := s.npc, npc := target }

/-- `advance_pc(n)`: both right-hand sides are read before either write (R8, D1); the sum wraps (D22). -/
def State.advancePc (s : State) (n : Word) : State :=
  s.jumpTo (s.npc + n)

/-- The end of an instruction whose only effect is `x[d] <- v; advance_pc(4)`. -/
def finishReg (s : State) (d : Reg) (v : Word) : State :=
  (s.setReg d v).advancePc 4

/-! ## Free values (`any32`, R10) -/

/-- The k-th free value not used yet. -/
def State.anyWord (s : State) (k : Nat) : Word := Config.anyWord (s.draws + k)

/-- A free choice between two values: the cautious treatment of U9 and U12. Which one is bit 0 of the next free value
(log 10). -/
def State.anyOf (s : State) (a b : Word) : Word :=
  if (s.anyWord 0).getLsbD 0 then a else b

/-- `n` free values are used up, so that the next ones are others. -/
def State.skipDraws (s : State) (n : Nat) : State :=
  { s with draws := s.draws + n }

/-! ## Taking an exception and returning from one (R196, R200) -/

/-- Trap entry: the step ends with the cause and its information; nothing is saved, no handler is entered and no
state changes (R196, D25, log 12). -/
def trap {α : Type} (cause : Fault) : Res α := .fault cause

/-! ## Memory (R40 to R50) -/

/-- The byte at address `a`, if one was ever written there (R49, R50). -/
def Memory.read? : Memory → Nat → Option Byte
  | [], _ => none
  | (k, b) :: rest, a => if k = a then some b else Memory.read? rest a

/-- The memory after `b` is stored at `a`; the entries stay in rising order. -/
def Memory.write : Memory → Nat → Byte → Memory
  | [], a, b => [(a, b)]
  | (k, c) :: rest, a, b =>
    if a < k then (a, b) :: (k, c) :: rest
    else if a = k then (a, b) :: rest
    else (k, c) :: Memory.write rest a b

/-- The canonical form: addresses strictly rising and inside the 32-bit address space (R40). An address that is not
listed holds no value (R50, log 4), so every listed entry says something. -/
abbrev Memory.WF (m : Memory) : Prop :=
  m.Pairwise (fun x y => x.1 < y.1) ∧ ∀ c ∈ m, c.1 < 2 ^ 32

/-- Whether an address lies in one of the regions. -/
def inRegions (rs : List Region) (a : Nat) : Bool :=
  rs.any fun r => decide (r.base ≤ a ∧ a < r.base + r.size)

/-- Whether an address holds memory: it is in `MEM_MAP` (R42). -/
def State.mapped (s : State) (a : Word) : Bool := inRegions s.cfg.memMap a.toNat

/-- Whether the four bytes at `addr` to `addr + 3` (modulo 2^32, R43) are all in `MEM_MAP`. -/
def State.mappedWord (s : State) (addr : Word) : Bool :=
  s.mapped addr && s.mapped (addr + 1) && s.mapped (addr + 2) && s.mapped (addr + 3)

/-- Whether an address lies in `TEXT` (R42, R55). -/
def State.inText (s : State) (a : Word) : Bool := inRegions s.cfg.text a.toNat

/-- Whether one of the four bytes at `addr` to `addr + 3` lies in `TEXT`. -/
def State.wordInText (s : State) (addr : Word) : Bool :=
  s.inText addr || s.inText (addr + 1) || s.inText (addr + 2) || s.inText (addr + 3)

/-- The byte at an address, if it holds a value. -/
def State.byteAt (s : State) (a : Word) : Option Byte := s.mem.read? a.toNat

/-- A multiple of 4: `addr[1:0] = 0`. -/
def isAligned (addr : Word) : Bool := addr.extractLsb' 0 2 == 0

/-- `MemRead(addr, 1)` (R43): `BusError` outside `MEM_MAP` (R42), then the model's fault for a byte without a value
(R50). -/
def loadByte (s : State) (kind : Access) (addr : Word) : Res Byte :=
  if s.mapped addr then
    match s.byteAt addr with
    | some b => .next b
    | none => trap (.unwrittenByte kind addr s.pc)
  else trap (.busError kind addr s.pc)

/-- `MemRead(addr, 4)` for any `addr` (R43), the bytes put together in the order `BYTE_ORDER`. -/
def loadWord (s : State) (kind : Access) (addr : Word) : Res Word :=
  if s.mappedWord addr then
    match s.byteAt addr, s.byteAt (addr + 1), s.byteAt (addr + 2), s.byteAt (addr + 3) with
    | some b0, some b1, some b2, some b3 => .next (wordOfBytes s.cfg.byteOrder b0 b1 b2 b3)
    | _, _, _, _ => trap (.unwrittenByte kind addr s.pc)
  else trap (.busError kind addr s.pc)

/-- `MemRead(addr, 4)` behind the alignment check, which comes before the map check (R46, R47, R198). -/
def loadAligned (s : State) (kind : Access) (addr : Word) : Res Word :=
  if isAligned addr then loadWord s kind addr else trap (.addressError kind addr s.pc)

/-- One byte put into memory. -/
def State.putByte (s : State) (a : Word) (b : Byte) : State :=
  { s with mem := s.mem.write a.toNat b }

/-- The four bytes of a word put into memory in the arrangement of R43 (R44). -/
def State.putWord (s : State) (addr v : Word) : State :=
  (((s.putByte addr (byteOfWord s.cfg.byteOrder v 0)).putByte (addr + 1) (byteOfWord s.cfg.byteOrder v 1)).putByte
    (addr + 2) (byteOfWord s.cfg.byteOrder v 2)).putByte (addr + 3) (byteOfWord s.cfg.byteOrder v 3)

/-- `MemWrite(addr, 1, b)` (R44): `BusError` outside `MEM_MAP`; refused in `TEXT` under that setting of R55. -/
def storeByte (s : State) (addr : Word) (b : Byte) : Res State :=
  if s.mapped addr then
    if s.cfg.textStores = .refuse ∧ s.inText addr then .refused (.storeIntoText addr s.pc)
    else .next (s.putByte addr b)
  else trap (.busError .store addr s.pc)

/-- `MemWrite(addr, 4, v)` for any `addr` (R44). -/
def storeWord (s : State) (addr v : Word) : Res State :=
  if s.mappedWord addr then
    if s.cfg.textStores = .refuse ∧ s.wordInText addr then .refused (.storeIntoText addr s.pc)
    else .next (s.putWord addr v)
  else trap (.busError .store addr s.pc)

/-- `MemWrite(addr, 4, v)` behind the alignment check (R46, R198). -/
def storeAligned (s : State) (addr v : Word) : Res State :=
  if isAligned addr then storeWord s addr v else trap (.addressError .store addr s.pc)

/-- The instruction word at `pc`: items 1 and 2 of R11 (R47, R198). A fetch reads the memory stores write (R55). -/
def fetch (s : State) : Res Word := loadAligned s .fetch s.pc

/-! ## What a launch must establish (R220, R221) -/

/-- R220, R221 and R42: `RESET_PC` is a multiple of 4 inside `TEXT`, `TEXT` is part of `MEM_MAP`, and the launch
supplies memory inside `MEM_MAP`, in the canonical form. -/
abbrev Launch.Valid (l : Launch) : Prop :=
  isAligned l.cfg.resetPc = true ∧ inRegions l.cfg.text l.cfg.resetPc.toNat = true ∧
    (∀ a < 2 ^ 32, inRegions l.cfg.text a = true → inRegions l.cfg.memMap a = true) ∧
    l.mem.WF ∧ ∀ c ∈ l.mem, inRegions l.cfg.memMap c.1 = true

/-! ## The system call's environment and the return from it (R180, R200) -/

/-- "the environment sees every register, HI, LO, pc, npc, memory" (R180). -/
def State.view (s : State) : EnvView := ⟨s.regs, s.hi, s.lo, s.pc, s.npc, s.mem⟩

/-- `out <- SYSCALL_ENV(state)` (R180): Halt where no environment is supplied. -/
def State.envAnswer (s : State) : EnvAnswer :=
  match s.env with
  | .absent => .halt []
  | .ofState k => Config.environment k s.view
  | .script [] after => after
  | .script (a :: _) _ => a

/-- The environment after it has answered: a script moves on, a function of the state stays. -/
def State.envRest (s : State) : Environment :=
  match s.env with
  | .absent => .absent
  | .ofState k => .ofState k
  | .script [] after => .script [] after
  | .script (_ :: rest) after => .script rest after

/-- The register writes of the environment, in order. -/
def State.setRegs (s : State) : List (Reg × Word) → State
  | [] => s
  | (r, v) :: rest => (s.setReg r v).setRegs rest

/-- The memory writes of the environment, in order; there is no memory outside `MEM_MAP` to write (R42, log 6). -/
def State.putBytes (s : State) : List (Word × Byte) → State
  | [] => s
  | (a, b) :: rest => (if s.mapped a then s.putByte a b else s).putBytes rest

/-- `state <- state'` of R180: the changes the environment made. -/
def State.applyEnv (s : State) (c : EnvChange) : State :=
  ((s.setRegs c.regs).setHiLo (c.hi.getD s.hi) (c.lo.getD s.lo)).putBytes c.mem

/-- The return: the changes, the answer given, and `advance_pc(4)` (R180, R200, C9). -/
def resumeSyscall (s : State) (c : EnvChange) : State :=
  { s.applyEnv c with env := s.envRest }.advancePc 4

end Sys2Proof.Machine
end

