-- ==== Sys2Proof/Machine/Flags.lean ====
section
/-! DEFINITION. The hardware has no flags (spec/10_state.md R28). What stands in their place: the conditions that
instructions compute from their operands, namely signed overflow (spec/40_arithmetic.md R100), the branch conditions
(spec/42_branch_jump.md R120) and "less than" (spec/46_compare.md R170). -/

namespace Sys2Proof.Machine

/-- The exact signed result is outside -2^31 to 2^31 - 1 (R100, R191). -/
def signedOverflow (r : Int) : Bool :=
  decide (r < -2147483648) || decide (2147483647 < r)

/-- "$s >= 0" on the signed number (R120, R122). -/
def geZero (v : Word) : Bool := decide (0 ≤ v.toInt)

/-- "$s > 0" (R120, R124). -/
def gtZero (v : Word) : Bool := decide (0 < v.toInt)

/-- "$s <= 0" (R120, R125). -/
def leZero (v : Word) : Bool := decide (v.toInt ≤ 0)

/-- "$s < 0" (R120, R126). -/
def ltZero (v : Word) : Bool := decide (v.toInt < 0)

/-- 1 where the condition holds and 0 otherwise, as a register's value (R170). -/
def boolWord (c : Bool) : Word := if c then 1 else 0

/-- Less than, as signed numbers (R171, R172). -/
def ltSigned (a b : Word) : Bool := decide (a.toInt < b.toInt)

/-- Less than, as unsigned numbers (R173, R174). -/
def ltUnsigned (a b : Word) : Bool := decide (a.toNat < b.toNat)

/-- A division without a result: by zero, or -2^31 by -1 (R141, D11, D12). -/
def divUndefined (a b : Word) : Bool :=
  b == 0 || (a == 0x80000000#32 && b == 0xFFFFFFFF#32)

/-- An unsigned division without a result: by zero (R142). -/
def divuUndefined (b : Word) : Bool := b == 0

end Sys2Proof.Machine
end

