-- ==== Sys2Proof/Machine/Operands.lean ====
section
/-! DEFINITION. The operand forms: immediates, addresses, displacements, targets and shift amounts (spec/30_encoding.md
R80 to R86). -/

namespace Sys2Proof.Machine

/-- `sext_32`: the immediate of ADDI, ADDIU, SLTI, SLTIU (R80) and the offset of a load or store (R82). -/
def sext (imm : Half) : Word := imm.signExtend 32

/-- `zext_32` of a 16-bit field (R10). -/
def zext (imm : Half) : Word := imm.zeroExtend 32

/-- The immediate of ANDI, ORI, XORI under the setting of `LOGICAL_IMM_EXT` (R81, D6; refused by U10). -/
def logicalImm (s : State) (imm : Half) : Res Word :=
  match s.cfg.logicalImmExt with
  | .zero => .next (zext imm)
  | .sign => .next (sext imm)
  | .refuse => if imm.msb then .refused (.logicalImmediateSign s.pc) else .next (zext imm)

/-- LUI's operand: the field in bits 31:16, zeros below (R86). -/
def luiImm (imm : Half) : Word := zext imm <<< 16

/-- The effective address of a load or store (R48): base plus offset modulo 2^32. -/
def effectiveAddress (s : State) (base : Reg) (offset : Half) : Word :=
  s.reg base + sext offset

/-- The byte displacement of a branch (R83). -/
def branchDisplacement (offset : Half) : Word := sext offset <<< 2

/-- The destination of J and JAL: the region of the delay slot's address, the target field, two zeros (R84, R129). -/
def jumpTarget (npc : Word) (target : Target) : Word :=
  (npc &&& 0xF0000000#32) ||| (target.zeroExtend 32 <<< 2)

/-- The link value, `pc + 8` in all cases (R133, C8). -/
def linkValue (s : State) : Word := s.pc + 8

/-- The amount of SLLV and SRLV under the setting of `VAR_SHIFT_AMOUNT` (R85, R161, D21; refused by U11). -/
def variableAmount (s : State) (v : Word) : Res Nat :=
  match s.cfg.varShiftAmount with
  | .low5 => .next (v.extractLsb' 0 5).toNat
  | .full => .next v.toNat
  | .refuse => if v.toNat < 32 then .next v.toNat else .refused (.shiftAmount s.pc)

/-- A loaded byte as a register's value under the setting of `LB_EXT` (R151, D7; drawn by U9). -/
def extendByte (s : State) (b : Byte) : Word :=
  match s.cfg.lbExt with
  | .sign => b.signExtend 32
  | .zero => b.zeroExtend 32
  | .draw => s.anyOf (b.signExtend 32) (b.zeroExtend 32)

/-- How many free values LB uses: one, when the two readings of U9 differ. -/
def extendByteDraws (s : State) (b : Byte) : Nat :=
  match s.cfg.lbExt with
  | .sign | .zero => 0
  | .draw => if b.msb then 1 else 0

/-- What MULT and MULTU leave in HI under the setting of `MULT_HI` (R145, D9). -/
def productHigh (s : State) (p : BitVec 64) : Word :=
  match s.cfg.multHi with
  | .highWord => p.extractLsb' 32 32
  | .unchanged => s.hi
  | .any => s.anyWord 0

/-- How many free values MULT and MULTU use. -/
def productHighDraws (s : State) : Nat :=
  match s.cfg.multHi with
  | .highWord | .unchanged => 0
  | .any => 1

end Sys2Proof.Machine
end

