-- ==== Sys2Proof/Machine/Arith.lean ====
section
/-! DEFINITION. Add and subtract (spec/40_arithmetic.md). -/

namespace Sys2Proof.Machine

/-- The signed forms: the exact result is written when it fits, else `Overflow` and nothing is written (R100, R191). -/
def finishSigned (s : State) (d : Reg) (exact : Int) : Res State :=
  if signedOverflow exact then trap (.overflow s.pc) else .next (finishReg s d (BitVec.ofInt 32 exact))

/-- ADD (R101). -/
def execAdd (d rs rt : Reg) (s : State) : Res State :=
  finishSigned s d ((s.reg rs).toInt + (s.reg rt).toInt)

/-- ADDI (R102). -/
def execAddi (t rs : Reg) (imm : Half) (s : State) : Res State :=
  finishSigned s t ((s.reg rs).toInt + (sext imm).toInt)

/-- ADDIU (R103). -/
def execAddiu (t rs : Reg) (imm : Half) (s : State) : Res State :=
  .next (finishReg s t (s.reg rs + sext imm))

/-- ADDU (R104). -/
def execAddu (d rs rt : Reg) (s : State) : Res State :=
  .next (finishReg s d (s.reg rs + s.reg rt))

/-- SUB (R105). -/
def execSub (d rs rt : Reg) (s : State) : Res State :=
  finishSigned s d ((s.reg rs).toInt - (s.reg rt).toInt)

/-- SUBU (R106). -/
def execSubu (d rs rt : Reg) (s : State) : Res State :=
  .next (finishReg s d (s.reg rs - s.reg rt))

end Sys2Proof.Machine
end

