-- ==== Sys2Proof/Machine/Branch.lean ====
section
/-! DEFINITION. Branches and jumps (spec/42_branch_jump.md). -/

namespace Sys2Proof.Machine

/-- The check of `DELAY_SLOT_CTI`: under `refuse` a branch or jump is declined when `npc` is not `pc + 4`; under
`followRules` the rules hold as written (R133, D20). DEDUCED (log 9): it is made when the instruction executes. -/
def controlTransfer (s : State) (after : State) : Res State :=
  if s.cfg.delaySlotCti = .refuse ∧ s.npc ≠ s.pc + 4 then .refused (.controlTransferInDelaySlot s.pc)
  else .next after

/-- The pair after a conditional branch (R120). -/
def State.branch (s : State) (taken : Bool) (offset : Half) : State :=
  s.advancePc (if taken then branchDisplacement offset else 4)

/-- `$31 <- pc + 8` (R22, R133). -/
def State.link (s : State) : State := s.setReg 31 (linkValue s)

/-- `$31` after a BGEZAL or BLTZAL that does not branch, by `LINK_WHEN_NOT_TAKEN` (R123, D29). -/
def State.linkNotTaken (s : State) : State :=
  match s.cfg.linkWhenNotTaken with
  | .no => s
  | .yes => s.link
  | .draw => (s.setReg 31 (s.anyOf (s.reg 31) (linkValue s))).skipDraws 1

/-- The state after a branch and link (R123, R127). -/
def State.branchLink (s : State) (taken : Bool) (offset : Half) : State :=
  (if taken then s.link else s.linkNotTaken).branch taken offset

/-- BEQ (R121). -/
def execBeq (rs rt : Reg) (offset : Half) (s : State) : Res State :=
  controlTransfer s (s.branch (s.reg rs == s.reg rt) offset)

/-- BGEZ (R122). -/
def execBgez (rs : Reg) (offset : Half) (s : State) : Res State :=
  controlTransfer s (s.branch (geZero (s.reg rs)) offset)

/-- BGEZAL (R123): the condition is read before `$31` is written. -/
def execBgezal (rs : Reg) (offset : Half) (s : State) : Res State :=
  controlTransfer s (s.branchLink (geZero (s.reg rs)) offset)

/-- BGTZ (R124). -/
def execBgtz (rs : Reg) (offset : Half) (s : State) : Res State :=
  controlTransfer s (s.branch (gtZero (s.reg rs)) offset)

/-- BLEZ (R125). -/
def execBlez (rs : Reg) (offset : Half) (s : State) : Res State :=
  controlTransfer s (s.branch (leZero (s.reg rs)) offset)

/-- BLTZ (R126). -/
def execBltz (rs : Reg) (offset : Half) (s : State) : Res State :=
  controlTransfer s (s.branch (ltZero (s.reg rs)) offset)

/-- BLTZAL (R127). -/
def execBltzal (rs : Reg) (offset : Half) (s : State) : Res State :=
  controlTransfer s (s.branchLink (ltZero (s.reg rs)) offset)

/-- BNE (R128). -/
def execBne (rs rt : Reg) (offset : Half) (s : State) : Res State :=
  controlTransfer s (s.branch (s.reg rs != s.reg rt) offset)

/-- J (R130). -/
def execJ (target : Target) (s : State) : Res State :=
  controlTransfer s (s.jumpTo (jumpTarget s.npc target))

/-- JAL (R131). -/
def execJal (target : Target) (s : State) : Res State :=
  controlTransfer s (s.link.jumpTo (jumpTarget s.npc target))

/-- JR (R132): no trap here, whatever the destination (R47). -/
def execJr (rs : Reg) (s : State) : Res State :=
  controlTransfer s (s.jumpTo (s.reg rs))

end Sys2Proof.Machine
end

