-- ==== Sys2Proof/Machine/Compare.lean ====
section
/-! DEFINITION. Set on less than (spec/46_compare.md). -/

namespace Sys2Proof.Machine

/-- SLT (R171). -/
def execSlt (d rs rt : Reg) (s : State) : Res State :=
  .next (finishReg s d (boolWord (ltSigned (s.reg rs) (s.reg rt))))

/-- SLTI (R172). -/
def execSlti (t rs : Reg) (imm : Half) (s : State) : Res State :=
  .next (finishReg s t (boolWord (ltSigned (s.reg rs) (sext imm))))

/-- SLTIU (R173): the immediate is sign-extended first, then read as unsigned (R80, C11). -/
def execSltiu (t rs : Reg) (imm : Half) (s : State) : Res State :=
  .next (finishReg s t (boolWord (ltUnsigned (s.reg rs) (sext imm))))

/-- SLTU (R174). -/
def execSltu (d rs rt : Reg) (s : State) : Res State :=
  .next (finishReg s d (boolWord (ltUnsigned (s.reg rs) (s.reg rt))))

end Sys2Proof.Machine
end

