-- ==== Sys2Proof/Machine/LoadStore.lean ====
section
/-! DEFINITION. Loads and stores (spec/44_load_store.md). -/

namespace Sys2Proof.Machine

/-- LB (R151). -/
def execLb (t : Reg) (offset : Half) (rs : Reg) (s : State) : Res State :=
  andThen (loadByte s .load (effectiveAddress s rs offset)) fun b =>
    .next (finishReg (s.skipDraws (extendByteDraws s b)) t (extendByte s b))

/-- LW (R152). -/
def execLw (t : Reg) (offset : Half) (rs : Reg) (s : State) : Res State :=
  andThen (loadAligned s .load (effectiveAddress s rs offset)) fun v => .next (finishReg s t v)

/-- SB (R153): the least significant byte of `$t`. -/
def execSb (t : Reg) (offset : Half) (rs : Reg) (s : State) : Res State :=
  andThen (storeByte s (effectiveAddress s rs offset) ((s.reg t).extractLsb' 0 8)) fun s' => .next (s'.advancePc 4)

/-- SW (R154). -/
def execSw (t : Reg) (offset : Half) (rs : Reg) (s : State) : Res State :=
  andThen (storeAligned s (effectiveAddress s rs offset) (s.reg t)) fun s' => .next (s'.advancePc 4)

end Sys2Proof.Machine
end

