-- ==== Sys2Proof/Machine/Logic.lean ====
section
/-! DEFINITION. Bitwise logic and LUI (spec/41_logical.md). -/

namespace Sys2Proof.Machine

/-- AND (R111). -/
def execAnd (d rs rt : Reg) (s : State) : Res State :=
  .next (finishReg s d (s.reg rs &&& s.reg rt))

/-- ANDI (R112). -/
def execAndi (t rs : Reg) (imm : Half) (s : State) : Res State :=
  andThen (logicalImm s imm) fun m => .next (finishReg s t (s.reg rs &&& m))

/-- LUI (R113). -/
def execLui (t : Reg) (imm : Half) (s : State) : Res State :=
  .next (finishReg s t (luiImm imm))

/-- OR (R114). -/
def execOr (d rs rt : Reg) (s : State) : Res State :=
  .next (finishReg s d (s.reg rs ||| s.reg rt))

/-- ORI (R115). -/
def execOri (t rs : Reg) (imm : Half) (s : State) : Res State :=
  andThen (logicalImm s imm) fun m => .next (finishReg s t (s.reg rs ||| m))

/-- XOR (R116). -/
def execXor (d rs rt : Reg) (s : State) : Res State :=
  .next (finishReg s d (s.reg rs ^^^ s.reg rt))

/-- XORI (R117). -/
def execXori (t rs : Reg) (imm : Half) (s : State) : Res State :=
  andThen (logicalImm s imm) fun m => .next (finishReg s t (s.reg rs ^^^ m))

end Sys2Proof.Machine
end

