-- ==== Sys2Proof/Machine/MulDiv.lean ====
section
/-! DEFINITION. Multiply, divide, HI and LO (spec/43_muldiv.md). -/

namespace Sys2Proof.Machine

/-- LO and HI written, `advance_pc(4)`. -/
def finishHiLo (s : State) (hi lo : Word) : State := (s.setHiLo hi lo).advancePc 4

/-- A division without a result: LO and HI each become a free value, or the step is refused, by `DIV_UNDEFINED`
(R141, R142, D11, D12). -/
def finishUndefinedDivision (s : State) : Res State :=
  match s.cfg.divUndefined with
  | .anyValue => .next (finishHiLo (s.skipDraws 2) (s.anyWord 1) (s.anyWord 0))
  | .refuse => .refused (.undefinedDivision s.pc)

/-- A multiplication: LO the low word, HI by `MULT_HI` (R145, R146, D9). -/
def finishProduct (s : State) (p : BitVec 64) : State :=
  finishHiLo (s.skipDraws (productHighDraws s)) (productHigh s p) (p.extractLsb' 0 32)

/-- DIV (R141): the quotient rounded toward zero, the remainder with the sign of the dividend (D10). -/
def execDiv (rs rt : Reg) (s : State) : Res State :=
  if divUndefined (s.reg rs) (s.reg rt) then finishUndefinedDivision s
  else .next (finishHiLo s (BitVec.ofInt 32 ((s.reg rs).toInt.tmod (s.reg rt).toInt))
    (BitVec.ofInt 32 ((s.reg rs).toInt.tdiv (s.reg rt).toInt)))

/-- DIVU (R142). -/
def execDivu (rs rt : Reg) (s : State) : Res State :=
  if divuUndefined (s.reg rt) then finishUndefinedDivision s
  else .next (finishHiLo s (BitVec.ofNat 32 ((s.reg rs).toNat % (s.reg rt).toNat))
    (BitVec.ofNat 32 ((s.reg rs).toNat / (s.reg rt).toNat)))

/-- MFHI (R143). -/
def execMfhi (d : Reg) (s : State) : Res State := .next (finishReg s d s.hi)

/-- MFLO (R144). -/
def execMflo (d : Reg) (s : State) : Res State := .next (finishReg s d s.lo)

/-- MULT (R145). -/
def execMult (rs rt : Reg) (s : State) : Res State :=
  .next (finishProduct s (BitVec.ofInt 64 ((s.reg rs).toInt * (s.reg rt).toInt)))

/-- MULTU (R146). -/
def execMultu (rs rt : Reg) (s : State) : Res State :=
  .next (finishProduct s (BitVec.ofNat 64 ((s.reg rs).toNat * (s.reg rt).toNat)))

end Sys2Proof.Machine
end

