-- ==== Sys2Proof/Machine/Shift.lean ====
section
/-! DEFINITION. NOOP and the shifts (spec/45_shift.md). -/

namespace Sys2Proof.Machine

/-- Left with zeros in; 0 for an amount of 32 or more (R161, the setting `full`). -/
def shiftLeft (v : Word) (n : Nat) : Word := if n < 32 then v <<< n else 0

/-- Right with zeros in; 0 for an amount of 32 or more (R161). -/
def shiftRight (v : Word) (n : Nat) : Word := if n < 32 then v >>> n else 0

/-- NOOP (R160): `advance_pc(4)` and nothing else. -/
def execNoop (s : State) : Res State := .next (s.advancePc 4)

/-- SLL (R162). -/
def execSll (d rt : Reg) (h : Shamt) (s : State) : Res State :=
  .next (finishReg s d (shiftLeft (s.reg rt) h.toNat))

/-- SLLV (R163). -/
def execSllv (d rt rs : Reg) (s : State) : Res State :=
  andThen (variableAmount s (s.reg rs)) fun n => .next (finishReg s d (shiftLeft (s.reg rt) n))

/-- SRA (R164): copies of bit 31 enter. -/
def execSra (d rt : Reg) (h : Shamt) (s : State) : Res State :=
  .next (finishReg s d ((s.reg rt).sshiftRight h.toNat))

/-- SRL (R165). -/
def execSrl (d rt : Reg) (h : Shamt) (s : State) : Res State :=
  .next (finishReg s d (shiftRight (s.reg rt) h.toNat))

/-- SRLV (R166). -/
def execSrlv (d rt rs : Reg) (s : State) : Res State :=
  andThen (variableAmount s (s.reg rs)) fun n => .next (finishReg s d (shiftRight (s.reg rt) n))

end Sys2Proof.Machine
end

