-- ==== Sys2Proof/Machine/System.lean ====
section
/-! DEFINITION. SYSCALL (spec/47_system.md). -/

namespace Sys2Proof.Machine

/-- SYSCALL (R180): control goes to the environment. Halt ends the run with the trap `Syscall(pc)` and the result;
Resume goes on after the instruction. -/
def execSyscall (s : State) : Res State :=
  match s.envAnswer with
  | .halt result => trap (.syscall s.pc result)
  | .resume change => .next (resumeSyscall s change)

end Sys2Proof.Machine
end

