-- ==== Sys2Proof/Machine/Step.lean ====
section
/-! DEFINITION. One step (spec/00_scope.md R11): fetch at `pc`, decode, execute. -/

namespace Sys2Proof.Machine

/-- R11: the fetch with its traps, `ReservedInstruction` for a word that is no instruction (R88, R194), then the
instruction's own rule. -/
def step (s : State) : Host.Outcome State Fault Refusal :=
  andThen (fetch s) fun w =>
    match decode w with
    | .ok i => exec i s
    | .error _ => trap (.reservedInstruction w s.pc)

/-- The instruction whose bits are `w` stored at `pc` in memory's byte order (R221), where the next step fetches; the
bits above `nbits` are zero. It stands for the launch placing a program's word (log 17). -/
def State.withFetchWord (s : State) (nbits w : Nat) : State :=
  s.putWord s.pc (BitVec.ofNat 32 (w % 2 ^ nbits))

end Sys2Proof.Machine
end

