-- ==== Sys2Proof/Safety.lean ====
section
/-! DEFINITION. The terms claims use: how a run ends (spec/70_reset_and_hazards.md R228), the invariant, the tables of
spec/10_state.md R23 and R27 and of spec/60_exceptions.md R190 as functions of the instruction, and what a state leaves
unchanged from another. -/

namespace Sys2Proof.Machine

/-! ## How a run ends (R228) -/

/-- The ends of R228, and the model's own fault (R50). -/
inductive RunEnd
  | success
  | trapped
  | modelFault
  | refusal
  deriving DecidableEq, Repr

/-- A fault's place in R228: a Halt of the environment is the only successful end. -/
def Fault.runEnd : Fault → RunEnd
  | .syscall _ _ => .success
  | .overflow _ => .trapped
  | .addressError _ _ _ => .trapped
  | .busError _ _ _ => .trapped
  | .reservedInstruction _ _ => .trapped
  | .unwrittenByte _ _ _ => .modelFault

/-- How the step from a state ends the run, if it does. -/
def State.runEnd (s : State) : Option RunEnd :=
  match step s with
  | .next _ => none
  | .fault f => some f.runEnd
  | .refused _ => some .refusal

/-- A step is safe when it goes on or ends the run successfully. -/
abbrev State.stepSafe (s : State) : Prop := s.runEnd = none ∨ s.runEnd = some .success

/-! ## Invariants -/

/-- Memory is in its canonical form and every byte that holds a value is in `MEM_MAP` (R42, R50). -/
abbrev State.Inv (s : State) : Prop :=
  s.mem.WF ∧ ∀ c ∈ s.mem, inRegions s.cfg.memMap c.1 = true

/-- Both program counter registers are multiples of 4 (R47). -/
abbrev State.aligned (s : State) : Prop := isAligned s.pc = true ∧ isAligned s.npc = true

/-- No parameter but `DELAY_SLOT_CTI` has the value `refuse`. -/
abbrev refusesOnlyInDelaySlots (c : Config) : Prop :=
  c.logicalImmExt ≠ .refuse ∧ c.varShiftAmount ≠ .refuse ∧ c.divUndefined ≠ .refuse ∧ c.textStores ≠ .refuse

/-- No parameter has the value `refuse`. -/
abbrev refusesNothing (c : Config) : Prop := refusesOnlyInDelaySlots c ∧ c.delaySlotCti ≠ .refuse

/-- The machine outside a delay slot of a taken branch or a jump, or under `DELAY_SLOT_CTI` = follow the rules: where
a branch or jump executes (R133). -/
abbrev State.transfersAllowed (s : State) : Prop := s.cfg.delaySlotCti = .followRules ∨ s.npc = s.pc + 4

/-! ## Tables of the spec as functions of the instruction -/

/-- The general register an instruction writes (the write column of R23); for BGEZAL and BLTZAL `$31`, written when
the branch is taken or by `LINK_WHEN_NOT_TAKEN`. SYSCALL is as `SYSCALL_ENV` says and stands apart. -/
def destination : Instr → Option Reg
  | .add d _ _ | .addu d _ _ | .and d _ _ | .or d _ _ | .slt d _ _ | .sltu d _ _ | .sub d _ _ | .subu d _ _
  | .xor d _ _ => some d
  | .addi t _ _ | .addiu t _ _ | .andi t _ _ | .ori t _ _ | .slti t _ _ | .sltiu t _ _ | .xori t _ _ => some t
  | .lui t _ => some t
  | .sll d _ _ | .sra d _ _ | .srl d _ _ => some d
  | .sllv d _ _ | .srlv d _ _ => some d
  | .mfhi d | .mflo d => some d
  | .lb t _ _ | .lw t _ _ => some t
  | .bgezal _ _ | .bltzal _ _ | .jal _ => some 31
  | .beq _ _ _ | .bne _ _ _ | .bgez _ _ | .bgtz _ _ | .blez _ _ | .bltz _ _ | .j _ | .jr _ => none
  | .div _ _ | .divu _ _ | .mult _ _ | .multu _ _ => none
  | .sb _ _ _ | .sw _ _ _ | .noop | .syscall => none

/-- The eleven branches and jumps (R133). -/
def isControlTransfer : Instr → Bool
  | .beq .. | .bgez .. | .bgezal .. | .bgtz .. | .blez .. | .bltz .. | .bltzal .. | .bne .. | .j .. | .jal ..
  | .jr .. => true
  | .add .. | .addi .. | .addiu .. | .addu .. | .and .. | .andi .. | .div .. | .divu .. | .lb .. | .lui .. | .lw ..
  | .mfhi .. | .mflo .. | .mult .. | .multu .. | .noop | .or .. | .ori .. | .sb .. | .sll .. | .sllv .. | .slt ..
  | .slti .. | .sltiu .. | .sltu .. | .sra .. | .srl .. | .srlv .. | .sub .. | .subu .. | .sw .. | .syscall
  | .xor .. | .xori .. => false

/-- Whether a branch is taken in a state (R120): signed readings of the register, or equality of all 32 bits. -/
def branchTaken (s : State) : Instr → Bool
  | .beq a b _ => decide (s.reg a = s.reg b)
  | .bne a b _ => decide (s.reg a ≠ s.reg b)
  | .bgez a _ | .bgezal a _ => decide (0 ≤ (s.reg a).toInt)
  | .bgtz a _ => decide (0 < (s.reg a).toInt)
  | .blez a _ => decide ((s.reg a).toInt ≤ 0)
  | .bltz a _ | .bltzal a _ => decide ((s.reg a).toInt < 0)
  | _ => false

/-- The offset field of a branch. -/
def branchOffset : Instr → Half
  | .beq _ _ o | .bne _ _ o => o
  | .bgez _ o | .bgezal _ o | .bgtz _ o | .blez _ o | .bltz _ o | .bltzal _ o => o
  | _ => 0

/-- The table of R27: `npc` after an instruction that is executed with the pair (P, N) = (`pc`, `npc`). -/
def npcAfter (s : State) (i : Instr) : Word :=
  match i with
  | .j target | .jal target => (s.npc &&& 0xF0000000#32) ||| (target.zeroExtend 32 <<< 2)
  | .jr a => s.reg a
  | i => if branchTaken s i then s.npc + ((branchOffset i).signExtend 32 <<< 2) else s.npc + 4

/-- The traps of the table of R190 that an instruction can raise itself, the model's fault of R50 beside the loads. -/
def mayRaise (s : State) (i : Instr) (f : Fault) : Prop :=
  match i with
  | .add _ _ _ | .addi _ _ _ | .sub _ _ _ => f = .overflow s.pc
  | .syscall => ∃ result, f = .syscall s.pc result
  | .lb _ o b =>
    f = .busError .load (effectiveAddress s b o) s.pc ∨ f = .unwrittenByte .load (effectiveAddress s b o) s.pc
  | .lw _ o b =>
    f = .addressError .load (effectiveAddress s b o) s.pc ∨ f = .busError .load (effectiveAddress s b o) s.pc ∨
      f = .unwrittenByte .load (effectiveAddress s b o) s.pc
  | .sb _ o b => f = .busError .store (effectiveAddress s b o) s.pc
  | .sw _ o b =>
    f = .addressError .store (effectiveAddress s b o) s.pc ∨ f = .busError .store (effectiveAddress s b o) s.pc
  | .addiu .. | .addu .. | .and .. | .andi .. | .beq .. | .bgez .. | .bgezal .. | .bgtz .. | .blez .. | .bltz ..
  | .bltzal .. | .bne .. | .div .. | .divu .. | .j .. | .jal .. | .jr .. | .lui .. | .mfhi .. | .mflo .. | .mult ..
  | .multu .. | .noop | .or .. | .ori .. | .sll .. | .sllv .. | .slt .. | .slti .. | .sltiu .. | .sltu .. | .sra ..
  | .srl .. | .srlv .. | .subu .. | .xor .. | .xori .. => False

/-- The cases on which the settings of R4 differ ("Settings for a cautious model", spec/92_eei_decisions.md). -/
def doubtful (s : State) : Instr → Bool
  | .andi _ _ imm | .ori _ _ imm | .xori _ _ imm => imm.msb
  | .sllv _ _ a | .srlv _ _ a => decide (32 ≤ (s.reg a).toNat)
  | .mult _ _ | .multu _ _ => true
  | .div a b => decide (s.reg b = 0 ∨ (s.reg a = 0x80000000#32 ∧ s.reg b = 0xFFFFFFFF#32))
  | .divu _ b => decide (s.reg b = 0)
  | .lb _ o b => ((s.byteAt (effectiveAddress s b o)).getD 0).msb
  | .sb _ o b => s.inText (effectiveAddress s b o)
  | .sw _ o b => s.wordInText (effectiveAddress s b o)
  | .bgezal a o => decide (s.npc ≠ s.pc + 4) || !branchTaken s (.bgezal a o)
  | .bltzal a o => decide (s.npc ≠ s.pc + 4) || !branchTaken s (.bltzal a o)
  | .beq _ _ _ | .bne _ _ _ | .bgez _ _ | .bgtz _ _ | .blez _ _ | .bltz _ _ | .j _ | .jal _ | .jr _ =>
    decide (s.npc ≠ s.pc + 4)
  | .add .. | .addi .. | .addiu .. | .addu .. | .and .. | .lui .. | .lw .. | .mfhi .. | .mflo .. | .noop | .or ..
  | .sll .. | .slt .. | .slti .. | .sltiu .. | .sltu .. | .sra .. | .srl .. | .sub .. | .subu .. | .syscall
  | .xor .. => false

/-- The same outcome under other parameters. -/
def withConfig (c : Config) : Res State → Res State
  | .next s => .next { s with cfg := c }
  | .fault f => .fault f
  | .refused r => .refused r

/-- Two settings of the parameters that R4 leaves open or decides agree on the platform: byte order and map. -/
abbrev samePlatform (c c' : Config) : Prop :=
  c.byteOrder = c'.byteOrder ∧ c.memMap = c'.memMap ∧ c.text = c'.text

/-! ## What a next state keeps -/

/-- Register `d` reads `v` unless `d` is `$0`, every other register reads as before (R21). -/
abbrev regWritten (s t : State) (d : Reg) (v : Word) : Prop :=
  ∀ r : Reg, t.reg r = if r = d ∧ d ≠ 0 then v else s.reg r

/-- Every general register reads as before. -/
abbrev sameRegs (s t : State) : Prop := ∀ r : Reg, t.reg r = s.reg r

/-- HI and LO are as before. -/
abbrev sameHiLo (s t : State) : Prop := t.hi = s.hi ∧ t.lo = s.lo

/-- Every byte of memory is as before. -/
abbrev sameMemory (s t : State) : Prop := ∀ a : Word, t.byteAt a = s.byteAt a

/-- Every byte of memory but the `n` bytes from `addr` is as before (addresses modulo 2^32). -/
abbrev sameMemoryBut (s t : State) (addr : Word) (n : Nat) : Prop :=
  ∀ a : Word, (∀ k < n, a ≠ addr + BitVec.ofNat 32 k) → t.byteAt a = s.byteAt a

/-- The model's own fields are as before. -/
abbrev sameOwn (s t : State) : Prop := t.cfg = s.cfg ∧ t.env = s.env ∧ t.draws = s.draws

/-- The pair (`pc`, `npc`) is (N, target). -/
abbrev pairIs (s t : State) (target : Word) : Prop := t.pc = s.npc ∧ t.npc = target

/-- The outcome is a next state in which `x[d] <- v; advance_pc(4)` has happened and nothing else. -/
abbrev WritesRegister (s : State) (o : Res State) (d : Reg) (v : Word) : Prop :=
  ∃ t, o = .next t ∧ regWritten s t d v ∧ sameHiLo s t ∧ sameMemory s t ∧ sameOwn s t ∧ pairIs s t (s.npc + 4)

/-- The outcome is a next state in which only the pair has moved, to (N, target). -/
abbrev MovesPair (s : State) (o : Res State) (target : Word) : Prop :=
  ∃ t, o = .next t ∧ sameRegs s t ∧ sameHiLo s t ∧ sameMemory s t ∧ sameOwn s t ∧ pairIs s t target

/-- The outcome is a next state in which `$31` holds `v`, the pair has moved to (N, target), and nothing else
happened. -/
abbrev LinksAndMoves (s : State) (o : Res State) (v target : Word) : Prop :=
  ∃ t, o = .next t ∧ regWritten s t 31 v ∧ sameHiLo s t ∧ sameMemory s t ∧ sameOwn s t ∧ pairIs s t target

/-- The outcome is a next state in which HI and LO hold the two values, and `advance_pc(4)` has happened and nothing
else. -/
abbrev WritesHiLo (s : State) (o : Res State) (hi lo : Word) : Prop :=
  ∃ t, o = .next t ∧ t.hi = hi ∧ t.lo = lo ∧ sameRegs s t ∧ sameMemory s t ∧ sameOwn s t ∧ pairIs s t (s.npc + 4)

/-- An instruction's Syntax and Encoding line: the assembler takes the line to the instruction, the encoder gives the
word, the decoder reads the instruction from it, and the row of the opcode table is the one named. -/
abbrev IsForm (i : Instr) (m : Mnemonic) (operands : List Int) (w mask bits : Word) : Prop :=
  assemble ⟨m, operands⟩ = some i ∧ encode i = w ∧ decode w = .ok i ∧ opcodeRow m = ⟨mask, bits⟩

end Sys2Proof.Machine
end

