-- ==== Sys2Proof/Certificates/Slice0/Obligations.lean ====
section
/-! DEFINITION. The statements for the provers. Their vocabulary (WritesRegister, MovesPair, the tables of
spec/10_state.md R23 and R27, …) is in Sys2Proof/Safety.lean. In all of them `s` is any state, also one no run
reaches. -/

open Sys2Proof Sys2Proof.Machine

/-! ## Encoding and assembly (spec/30_encoding.md) -/

/-- Decode and encode agree: every instruction term a word can stand for is what its encoding decodes to. -/
def Obligations.DecodeOfEncodeIsTheInstruction : Prop :=
  ∀ i : Instr, i.wellFormed = true → decode (encode i) = .ok i

/-- R78: a word is instruction M exactly when its masked bits are those of M's row, and it is refused exactly when no
row matches. -/
def Obligations.DecodingIsMaskAndMatch : Prop :=
  ∀ w : Word,
    (∀ m : Mnemonic, m ≠ .noop →
      ((∃ i, decode w = .ok i ∧ i.mnemonic = m) ↔ w &&& (opcodeRow m).mask = (opcodeRow m).bits)) ∧
    ((∃ e, decode w = .error e) ↔
      ∀ m : Mnemonic, m ≠ .noop → w &&& (opcodeRow m).mask ≠ (opcodeRow m).bits)

/-- No word matches two rows but for the alias NOOP. -/
def Obligations.OpcodeRowsAreDisjoint : Prop :=
  ∀ (w : Word) (m m' : Mnemonic), m ≠ .noop → m' ≠ .noop →
    w &&& (opcodeRow m).mask = (opcodeRow m).bits → w &&& (opcodeRow m').mask = (opcodeRow m').bits → m = m'

/-- R79 with C5 and C7: bits 25:21 of LUI, SLL, SRL, SRA, bits 10:6 of SLLV and XOR and bits 25:6 of SYSCALL take no
part in decoding, whatever their value. -/
def Obligations.DontCareBitsAreIgnored : Prop :=
  (∀ (x t : Reg) (imm : Half), decode (0b001111#6 ++ x ++ t ++ imm) = .ok (.lui t imm)) ∧
  (∀ (x t d : Reg) (h : Shamt),
    decode (0b000000#6 ++ x ++ t ++ d ++ h ++ 0b000000#6) = .ok (.sll d t h) ∧
    decode (0b000000#6 ++ x ++ t ++ d ++ h ++ 0b000010#6) = .ok (.srl d t h) ∧
    decode (0b000000#6 ++ x ++ t ++ d ++ h ++ 0b000011#6) = .ok (.sra d t h)) ∧
  (∀ (x : BitVec 5) (s t d : Reg),
    decode (0b000000#6 ++ s ++ t ++ d ++ x ++ 0b000100#6) = .ok (.sllv d t s) ∧
    decode (0b000000#6 ++ s ++ t ++ d ++ x ++ 0b100110#6) = .ok (.xor d s t)) ∧
  (∀ x : BitVec 20, decode (0b000000#6 ++ x ++ 0b001100#6) = .ok .syscall)

/-- Words of spec/95_test_vectors.md and the reading it gives each. -/
def Obligations.VectorWordsDecodeAsListed : Prop :=
  decode 0x00221820#32 = .ok (.add 3 1 2) ∧ decode 0x2022FFFF#32 = .ok (.addi 2 1 0xFFFF) ∧
  decode 0x3FE21234#32 = .ok (.lui 2 0x1234) ∧ decode 0x07F10004#32 = .ok (.bgezal 31 4) ∧
  decode 0x0C100040#32 = .ok (.jal 0x100040) ∧ decode 0x0022001A#32 = .ok (.div 1 2) ∧
  decode 0xAC22FFFC#32 = .ok (.sw 2 0xFFFC 1) ∧ decode 0x00221804#32 = .ok (.sllv 3 2 1) ∧
  decode 0x2C22FFFF#32 = .ok (.sltiu 2 1 0xFFFF) ∧ decode 0x03FFFFCC#32 = .ok .syscall ∧
  decode 0x00221860#32 = .error .fixedBits ∧ decode 0x00220027#32 = .error .reservedFunct ∧
  decode 0x04220004#32 = .error .reservedSelector ∧ decode 0x90220000#32 = .error .reservedOp

/-- R90 and R91: an instruction's assembly line assembles to it, NOOP's among them. -/
def Obligations.AssembleOfDisassembleIsTheInstruction : Prop :=
  ∀ i : Instr, assemble (disassemble i) = some i

/-- R91: the assembler accepts exactly the lines whose operands are in range, and no accepted operand changes its
meaning: the instruction's own line is the one written. -/
def Obligations.AssemblerKeepsOperandsAndRefusesTheRest : Prop :=
  ∀ l : AsmLine, ((assemble l).isSome = l.wellFormed) ∧ ∀ i, assemble l = some i → disassemble i = l

/-! ## The step, reset and the invariant -/

/-- R11: when the word fetched at `pc` decodes to a well-formed instruction, the step is that instruction's rule at
that state, with nothing around it. -/
def Obligations.StepRunsTheDecodedInstruction : Prop :=
  ∀ (s : State) (w : Word) (i : Instr), isAligned s.pc = true → loadWord s .fetch s.pc = .next w →
    decode w = .ok i → i.wellFormed = true → step s = exec i s

/-- R198, items 1 to 3, with R50 between them: the first that applies, in this order, ends the step. -/
def Obligations.FetchStopsInPriorityOrder : Prop :=
  ∀ s : State,
    (isAligned s.pc = false → step s = .fault (.addressError .fetch s.pc s.pc)) ∧
    (isAligned s.pc = true → s.mappedWord s.pc = false → step s = .fault (.busError .fetch s.pc s.pc)) ∧
    (isAligned s.pc = true → s.mappedWord s.pc = true →
      (s.byteAt s.pc = none ∨ s.byteAt (s.pc + 1) = none ∨ s.byteAt (s.pc + 2) = none ∨ s.byteAt (s.pc + 3) = none) →
      step s = .fault (.unwrittenByte .fetch s.pc s.pc)) ∧
    (∀ b0 b1 b2 b3, isAligned s.pc = true → s.mappedWord s.pc = true → s.byteAt s.pc = some b0 →
      s.byteAt (s.pc + 1) = some b1 → s.byteAt (s.pc + 2) = some b2 → s.byteAt (s.pc + 3) = some b3 →
      (∀ m : Mnemonic, m ≠ .noop →
        wordOfBytes s.cfg.byteOrder b0 b1 b2 b3 &&& (opcodeRow m).mask ≠ (opcodeRow m).bits) →
      step s = .fault (.reservedInstruction (wordOfBytes s.cfg.byteOrder b0 b1 b2 b3) s.pc))

/-- R220, R221, R31: what a launch leaves, for every setting of the parameters and whatever it supplies; what a launch
that meets R220's demands establishes; and reset, the launch that supplies nothing, which meets them. That `$1` to
`$31`, HI and LO hold 0 where nothing is supplied is the model's choice (log 3), reset's parameters are (log 2). -/
def Obligations.LaunchStateIsAsTheRulesSay : Prop :=
  (∀ l : Launch,
    (State.launch l).pc = l.cfg.resetPc ∧ (State.launch l).npc = l.cfg.resetPc + 4 ∧
    (State.launch l).mem = l.mem ∧ (State.launch l).cfg = l.cfg ∧ (State.launch l).env = l.env ∧
    (State.launch l).reg 0 = 0 ∧ (∀ r : Reg, r ≠ 0 → l.regs[r.toNat - 1]? = some ((State.launch l).reg r)) ∧
    (State.launch l).hi = l.hi ∧ (State.launch l).lo = l.lo) ∧
  (∀ l : Launch, l.Valid →
    (State.launch l).aligned ∧ (State.launch l).inText l.cfg.resetPc = true ∧
    (State.launch l).mapped l.cfg.resetPc = true ∧ (State.launch l).transfersAllowed ∧ (State.launch l).Inv) ∧
  (∀ (c : Config) (r : Reg), (State.launch (Launch.bare c)).reg r = 0 ∧ (State.launch (Launch.bare c)).hi = 0 ∧
    (State.launch (Launch.bare c)).lo = 0 ∧ (State.launch (Launch.bare c)).byteAt = fun _ => none) ∧
  State.reset = State.launch (Launch.bare Config.initial) ∧ (Launch.bare Config.initial).Valid

/-- Every step keeps memory in its canonical form with every byte inside `MEM_MAP`. -/
def Obligations.StepKeepsTheMemoryInvariant : Prop :=
  ∀ s t : State, s.Inv → step s = .next t → t.Inv

/-- Reset meets the invariant, and so does every launch whose memory does. -/
def Obligations.ResetMeetsTheMemoryInvariant : Prop :=
  State.reset.Inv ∧
  ∀ l : Launch, l.mem.WF → (∀ x ∈ l.mem, inRegions l.cfg.memMap x.1 = true) → (State.launch l).Inv

/-- No instruction and no step changes a parameter; the environment is as before unless a SYSCALL resumed, and then it
is what is left after the answer it gave; the count of free values never falls (logs 1, 5 and 8). -/
def Obligations.StepKeepsParametersAndInputs : Prop :=
  (∀ (i : Instr) (s t : State), exec i s = .next t →
    t.cfg = s.cfg ∧ s.draws ≤ t.draws ∧ (i ≠ .syscall → t.env = s.env) ∧
    (i = .syscall → (∃ c, s.envAnswer = .resume c) ∧ t.env = s.envRest)) ∧
  (∀ s t : State, step s = .next t →
    t.cfg = s.cfg ∧ s.draws ≤ t.draws ∧ (t.env = s.env ∨ ((∃ c, s.envAnswer = .resume c) ∧ t.env = s.envRest)))

/-- R47: "A misaligned `pc` can arise only from `JR`": every other instruction keeps both program counter registers
multiples of 4. -/
def Obligations.OnlyJumpRegisterLosesAlignment : Prop :=
  ∀ (i : Instr) (s t : State), (∀ a, i ≠ .jr a) → s.aligned → exec i s = .next t → t.aligned

/-! ## Rules over all instructions -/

/-- R27: how each instruction advances the pair (P, N): the table is `npcAfter`. -/
def Obligations.EveryInstructionAdvancesThePairAsTabled : Prop :=
  ∀ (i : Instr) (s t : State), exec i s = .next t → t.pc = s.npc ∧ t.npc = npcAfter s i

/-- The write column of R23: no general register changes but the destination, SYSCALL apart; `$0` never does. -/
def Obligations.OnlyTheDestinationRegisterChanges : Prop :=
  ∀ (i : Instr) (s t : State), exec i s = .next t →
    t.reg 0 = 0 ∧ (i ≠ .syscall → ∀ r : Reg, destination i ≠ some r → t.reg r = s.reg r)

/-- R24 and R147: HI and LO are changed by MULT, MULTU, DIV and DIVU only, SYSCALL's environment apart. -/
def Obligations.HiAndLoChangeOnlyInMultiplyAndDivide : Prop :=
  ∀ (i : Instr) (s t : State), exec i s = .next t → i ≠ .syscall →
    (∀ a b, i ≠ .mult a b ∧ i ≠ .multu a b ∧ i ≠ .div a b ∧ i ≠ .divu a b) → t.hi = s.hi ∧ t.lo = s.lo

/-- R30: memory is changed by SB and SW only, SYSCALL's environment apart. -/
def Obligations.MemoryChangesOnlyInStores : Prop :=
  ∀ (i : Instr) (s t : State), exec i s = .next t → i ≠ .syscall →
    (∀ a o b, i ≠ .sb a o b ∧ i ≠ .sw a o b) → ∀ x : Word, t.byteAt x = s.byteAt x

/-- R191: which instructions raise Overflow and exactly when. -/
def Obligations.OverflowIsRaisedExactlyWhenTheSignedResultDoesNotFit : Prop :=
  ∀ (i : Instr) (s : State) (p : Word), exec i s = .fault (.overflow p) ↔ p = s.pc ∧
    ((∃ d a b, i = .add d a b ∧ ¬ (-2 ^ 31 ≤ (s.reg a).toInt + (s.reg b).toInt ∧
        (s.reg a).toInt + (s.reg b).toInt ≤ 2 ^ 31 - 1)) ∨
     (∃ d a imm, i = .addi d a imm ∧ ¬ (-2 ^ 31 ≤ (s.reg a).toInt + imm.toInt ∧
        (s.reg a).toInt + imm.toInt ≤ 2 ^ 31 - 1)) ∨
     (∃ d a b, i = .sub d a b ∧ ¬ (-2 ^ 31 ≤ (s.reg a).toInt - (s.reg b).toInt ∧
        (s.reg a).toInt - (s.reg b).toInt ≤ 2 ^ 31 - 1)))

/-- R190: an instruction raises no fault but those its row of the table allows it, each with its own `pc` (the loads
also the model's own fault of R50). -/
def Obligations.InstructionsRaiseOnlyTheirTabledFaults : Prop :=
  ∀ (i : Instr) (s : State) (f : Fault), exec i s = .fault f → mayRaise s i f

/-- Where no parameter says `refuse`, no instruction and no step is refused. Where none but DELAY_SLOT_CTI does, a
refused instruction is a branch or jump met while `npc` is not `pc + 4`, and a refused step began so (R133). Reset is of
the second kind: DELAY_SLOT_CTI has the decided value of R4 and D20. That stores into TEXT are not refused there is the
model's own choice, not the recommended setting of R55 and D19 (log 11). -/
def Obligations.NothingIsRefusedWithoutARefusingSetting : Prop :=
  (∀ (s : State) (r : Refusal), refusesNothing s.cfg → step s ≠ .refused r ∧ ∀ i, exec i s ≠ .refused r) ∧
  (∀ (s : State) (r : Refusal), refusesOnlyInDelaySlots s.cfg →
    (∀ i, exec i s = .refused r →
      isControlTransfer i = true ∧ s.npc ≠ s.pc + 4 ∧ r = .controlTransferInDelaySlot s.pc) ∧
    (step s = .refused r → s.npc ≠ s.pc + 4 ∧ r = .controlTransferInDelaySlot s.pc)) ∧
  refusesOnlyInDelaySlots State.reset.cfg ∧ State.reset.cfg.delaySlotCti = .refuse

/-- "A program avoiding all these cases behaves identically under every setting" (spec/92_eei_decisions.md): an
instruction that is none of the doubtful cases has the same outcome under any two settings that agree on byte order
and memory map. -/
def Obligations.UndoubtfulInstructionsDoNotDependOnTheSettings : Prop :=
  ∀ (i : Instr) (s : State) (c : Config), samePlatform s.cfg c → doubtful s i = false →
    exec i { s with cfg := c } = withConfig c (exec i s)

/-- R25: a program cannot read `pc` except through the link value: the registers, HI, LO and memory an instruction that
does not link leaves are the same from any `pc`. The environment of a SYSCALL does see `pc` (R180); where it answers
alike, the same holds of SYSCALL. -/
def Obligations.OnlyLinksReadTheProgramCounter : Prop :=
  ∀ (i : Instr) (s t u : State) (p : Word), (∀ a o, i ≠ .bgezal a o ∧ i ≠ .bltzal a o) → (∀ a, i ≠ .jal a) →
    (i = .syscall → { s with pc := p }.envAnswer = s.envAnswer) →
    exec i s = .next t → exec i { s with pc := p } = .next u →
    sameRegs t u ∧ sameHiLo t u ∧ sameMemory t u ∧ t.npc = u.npc

/-! ## Memory (spec/20_memory.md) -/

/-- R44: a word stored and read back is the word, in either byte order; its bytes lie as R43 arranges them; every other
byte is as before. -/
def Obligations.StoredWordIsReadBackAndItsBytesLieInOrder : Prop :=
  ∀ (s t : State) (kind : Access) (a v : Word), storeWord s a v = .next t →
    loadWord t kind a = .next v ∧ sameMemoryBut s t a 4 ∧
    (s.cfg.byteOrder = .big → t.byteAt a = some (v.extractLsb' 24 8) ∧ t.byteAt (a + 1) = some (v.extractLsb' 16 8) ∧
      t.byteAt (a + 2) = some (v.extractLsb' 8 8) ∧ t.byteAt (a + 3) = some (v.extractLsb' 0 8)) ∧
    (s.cfg.byteOrder = .little → t.byteAt a = some (v.extractLsb' 0 8) ∧ t.byteAt (a + 1) = some (v.extractLsb' 8 8) ∧
      t.byteAt (a + 2) = some (v.extractLsb' 16 8) ∧ t.byteAt (a + 3) = some (v.extractLsb' 24 8))

/-! ## Add and subtract (spec/40_arithmetic.md) -/

/-- R103, R104, R106: ADDIU, ADDU and SUBU execute in every state and write the sum or difference modulo 2^32. -/
def Obligations.UnsignedAddAndSubtractWriteTheWrappedResult : Prop :=
  (∀ (s : State) (t a : Reg) (imm : Half),
    WritesRegister s (exec (.addiu t a imm) s) t (s.reg a + imm.signExtend 32)) ∧
  (∀ (s : State) (d a b : Reg),
    WritesRegister s (exec (.addu d a b) s) d (s.reg a + s.reg b) ∧
    IsForm (.addu d a b) .addu [d.toNat, a.toNat, b.toNat] (0b000000#6 ++ a ++ b ++ d ++ 0b00000#5 ++ 0b100001#6)
      0xFC0007FF#32 0x00000021#32) ∧
  (∀ (s : State) (d a b : Reg),
    WritesRegister s (exec (.subu d a b) s) d (s.reg a - s.reg b) ∧
    IsForm (.subu d a b) .subu [d.toNat, a.toNat, b.toNat] (0b000000#6 ++ a ++ b ++ d ++ 0b00000#5 ++ 0b100011#6)
      0xFC0007FF#32 0x00000023#32)

/-- R101, R102, R105: ADD, ADDI and SUB write the exact result where it fits in 32 signed bits, and raise Overflow
where it does not, the state then being the one before. -/
def Obligations.SignedAddAndSubtractWriteOrTrap : Prop :=
  (∀ (s : State) (d a b : Reg),
    (-2 ^ 31 ≤ (s.reg a).toInt + (s.reg b).toInt ∧ (s.reg a).toInt + (s.reg b).toInt ≤ 2 ^ 31 - 1 →
      WritesRegister s (exec (.add d a b) s) d (BitVec.ofInt 32 ((s.reg a).toInt + (s.reg b).toInt))) ∧
    (¬ (-2 ^ 31 ≤ (s.reg a).toInt + (s.reg b).toInt ∧ (s.reg a).toInt + (s.reg b).toInt ≤ 2 ^ 31 - 1) →
      exec (.add d a b) s = .fault (.overflow s.pc)) ∧
    IsForm (.add d a b) .add [d.toNat, a.toNat, b.toNat] (0b000000#6 ++ a ++ b ++ d ++ 0b00000#5 ++ 0b100000#6)
      0xFC0007FF#32 0x00000020#32) ∧
  (∀ (s : State) (t a : Reg) (imm : Half),
    (-2 ^ 31 ≤ (s.reg a).toInt + imm.toInt ∧ (s.reg a).toInt + imm.toInt ≤ 2 ^ 31 - 1 →
      WritesRegister s (exec (.addi t a imm) s) t (BitVec.ofInt 32 ((s.reg a).toInt + imm.toInt))) ∧
    (¬ (-2 ^ 31 ≤ (s.reg a).toInt + imm.toInt ∧ (s.reg a).toInt + imm.toInt ≤ 2 ^ 31 - 1) →
      exec (.addi t a imm) s = .fault (.overflow s.pc))) ∧
  (∀ (s : State) (d a b : Reg),
    (-2 ^ 31 ≤ (s.reg a).toInt - (s.reg b).toInt ∧ (s.reg a).toInt - (s.reg b).toInt ≤ 2 ^ 31 - 1 →
      WritesRegister s (exec (.sub d a b) s) d (BitVec.ofInt 32 ((s.reg a).toInt - (s.reg b).toInt))) ∧
    (¬ (-2 ^ 31 ≤ (s.reg a).toInt - (s.reg b).toInt ∧ (s.reg a).toInt - (s.reg b).toInt ≤ 2 ^ 31 - 1) →
      exec (.sub d a b) s = .fault (.overflow s.pc)) ∧
    IsForm (.sub d a b) .sub [d.toNat, a.toNat, b.toNat] (0b000000#6 ++ a ++ b ++ d ++ 0b00000#5 ++ 0b100010#6)
      0xFC0007FF#32 0x00000022#32)

/-- R100: signed overflow by the sign bits of operands and 32-bit result. -/
def Obligations.SignedOverflowByTheSignBits : Prop :=
  ∀ (s : State) (d a b : Reg),
    (exec (.add d a b) s = .fault (.overflow s.pc) ↔
      (s.reg a).msb = (s.reg b).msb ∧ (s.reg a + s.reg b).msb ≠ (s.reg a).msb) ∧
    (exec (.sub d a b) s = .fault (.overflow s.pc) ↔
      (s.reg a).msb ≠ (s.reg b).msb ∧ (s.reg a - s.reg b).msb = (s.reg b).msb)

/-- R100: where they do not trap, the signed forms do what the unsigned forms do. -/
def Obligations.SignedFormsAgreeWithUnsignedFormsUnlessTheyTrap : Prop :=
  ∀ (s : State) (d a b : Reg) (imm : Half),
    (exec (.add d a b) s ≠ .fault (.overflow s.pc) → exec (.add d a b) s = exec (.addu d a b) s) ∧
    (exec (.sub d a b) s ≠ .fault (.overflow s.pc) → exec (.sub d a b) s = exec (.subu d a b) s) ∧
    (exec (.addi d a imm) s ≠ .fault (.overflow s.pc) → exec (.addi d a imm) s = exec (.addiu d a imm) s)

/-! ## Bitwise logic and LUI (spec/41_logical.md) -/

/-- R111, R114, R116: AND, OR and XOR execute in every state and combine the two registers bit by bit. -/
def Obligations.RegisterLogicWritesTheBitwiseResult : Prop :=
  ∀ (s : State) (d a b : Reg),
    (WritesRegister s (exec (.and d a b) s) d (s.reg a &&& s.reg b) ∧
     IsForm (.and d a b) .and [d.toNat, a.toNat, b.toNat] (0b000000#6 ++ a ++ b ++ d ++ 0b00000#5 ++ 0b100100#6)
       0xFC0007FF#32 0x00000024#32) ∧
    (WritesRegister s (exec (.or d a b) s) d (s.reg a ||| s.reg b) ∧
     IsForm (.or d a b) .or [d.toNat, a.toNat, b.toNat] (0b000000#6 ++ a ++ b ++ d ++ 0b00000#5 ++ 0b100101#6)
       0xFC0007FF#32 0x00000025#32) ∧
    WritesRegister s (exec (.xor d a b) s) d (s.reg a ^^^ s.reg b)

/-- R112, R115, R117 with D6: ANDI, ORI and XORI under each setting of LOGICAL_IMM_EXT. The decided setting is the
spec's own choice (D6); the refusal is the cautious treatment of U10. -/
def Obligations.ImmediateLogicUnderEachSetting : Prop :=
  ∀ (s : State) (t a : Reg) (imm : Half),
    (s.cfg.logicalImmExt = .zero ∨ (s.cfg.logicalImmExt = .refuse ∧ imm.getLsbD 15 = false) →
      WritesRegister s (exec (.andi t a imm) s) t (s.reg a &&& imm.zeroExtend 32) ∧
      WritesRegister s (exec (.ori t a imm) s) t (s.reg a ||| imm.zeroExtend 32) ∧
      WritesRegister s (exec (.xori t a imm) s) t (s.reg a ^^^ imm.zeroExtend 32)) ∧
    (s.cfg.logicalImmExt = .sign →
      WritesRegister s (exec (.andi t a imm) s) t (s.reg a &&& imm.signExtend 32) ∧
      WritesRegister s (exec (.ori t a imm) s) t (s.reg a ||| imm.signExtend 32) ∧
      WritesRegister s (exec (.xori t a imm) s) t (s.reg a ^^^ imm.signExtend 32)) ∧
    (s.cfg.logicalImmExt = .refuse → imm.getLsbD 15 = true →
      exec (.andi t a imm) s = .refused (.logicalImmediateSign s.pc) ∧
      exec (.ori t a imm) s = .refused (.logicalImmediateSign s.pc) ∧
      exec (.xori t a imm) s = .refused (.logicalImmediateSign s.pc))

/-- R86 and R113: LUI executes in every state; bits 31:16 of the register are the field and the lower 16 are zeros. -/
def Obligations.LoadUpperImmediateWritesTheUpperHalf : Prop :=
  ∀ (s : State) (t : Reg) (imm : Half),
    WritesRegister s (exec (.lui t imm) s) t (imm ++ 0#16)

/-! ## Branches and jumps (spec/42_branch_jump.md) -/

/-- R121 and R128: BEQ and BNE move the pair to the branch target when their condition holds and on otherwise, outside
a delay slot or where branches in one are followed (R133). -/
def Obligations.EqualityBranchesMoveThePair : Prop :=
  ∀ (s : State) (a b : Reg) (offset : Half),
    IsForm (.beq a b offset) .beq [a.toNat, b.toNat, offset.toInt] (0b000100#6 ++ a ++ b ++ offset)
      0xFC000000#32 0x10000000#32 ∧
    IsForm (.bne a b offset) .bne [a.toNat, b.toNat, offset.toInt] (0b000101#6 ++ a ++ b ++ offset)
      0xFC000000#32 0x14000000#32 ∧
    (s.transfersAllowed → s.reg a = s.reg b →
      MovesPair s (exec (.beq a b offset) s) (s.npc + (offset.signExtend 32 <<< 2)) ∧
      MovesPair s (exec (.bne a b offset) s) (s.npc + 4)) ∧
    (s.transfersAllowed → s.reg a ≠ s.reg b →
      MovesPair s (exec (.beq a b offset) s) (s.npc + 4) ∧
      MovesPair s (exec (.bne a b offset) s) (s.npc + (offset.signExtend 32 <<< 2)))

/-- R122, R124, R125, R126: BGEZ, BGTZ, BLEZ and BLTZ test the register as a signed number. -/
def Obligations.SignBranchesMoveThePair : Prop :=
  ∀ (s : State) (a : Reg) (offset : Half),
    IsForm (.bgez a offset) .bgez [a.toNat, offset.toInt] (0b000001#6 ++ a ++ 0b00001#5 ++ offset)
      0xFC1F0000#32 0x04010000#32 ∧
    IsForm (.bltz a offset) .bltz [a.toNat, offset.toInt] (0b000001#6 ++ a ++ 0b00000#5 ++ offset)
      0xFC1F0000#32 0x04000000#32 ∧
    IsForm (.bgtz a offset) .bgtz [a.toNat, offset.toInt] (0b000111#6 ++ a ++ 0b00000#5 ++ offset)
      0xFC1F0000#32 0x1C000000#32 ∧
    IsForm (.blez a offset) .blez [a.toNat, offset.toInt] (0b000110#6 ++ a ++ 0b00000#5 ++ offset)
      0xFC1F0000#32 0x18000000#32 ∧
    (s.transfersAllowed → 0 ≤ (s.reg a).toInt →
      MovesPair s (exec (.bgez a offset) s) (s.npc + (offset.signExtend 32 <<< 2)) ∧
      MovesPair s (exec (.bltz a offset) s) (s.npc + 4)) ∧
    (s.transfersAllowed → (s.reg a).toInt < 0 →
      MovesPair s (exec (.bgez a offset) s) (s.npc + 4) ∧
      MovesPair s (exec (.bltz a offset) s) (s.npc + (offset.signExtend 32 <<< 2))) ∧
    (s.transfersAllowed → 0 < (s.reg a).toInt →
      MovesPair s (exec (.bgtz a offset) s) (s.npc + (offset.signExtend 32 <<< 2)) ∧
      MovesPair s (exec (.blez a offset) s) (s.npc + 4)) ∧
    (s.transfersAllowed → (s.reg a).toInt ≤ 0 →
      MovesPair s (exec (.bgtz a offset) s) (s.npc + 4) ∧
      MovesPair s (exec (.blez a offset) s) (s.npc + (offset.signExtend 32 <<< 2)))

/-- R123 and R127: a taken BGEZAL or BLTZAL writes `pc + 8` to `$31` and branches, the condition read before the link
is written. -/
def Obligations.TakenBranchAndLinkWritesTheReturnAddress : Prop :=
  ∀ (s : State) (a : Reg) (offset : Half), s.transfersAllowed →
    (0 ≤ (s.reg a).toInt →
      LinksAndMoves s (exec (.bgezal a offset) s) (s.pc + 8) (s.npc + (offset.signExtend 32 <<< 2))) ∧
    ((s.reg a).toInt < 0 →
      LinksAndMoves s (exec (.bltzal a offset) s) (s.pc + 8) (s.npc + (offset.signExtend 32 <<< 2)))

/-- R123 and R127 with D29: a BGEZAL or BLTZAL that does not branch, under each setting of LINK_WHEN_NOT_TAKEN; under
the cautious one `$31` holds its old value or `pc + 8` and nothing says which (log 10). -/
def Obligations.NotTakenBranchAndLinkUnderEachSetting : Prop :=
  ∀ (s : State) (a : Reg) (offset : Half) (i : Instr), s.transfersAllowed →
    ((i = .bgezal a offset ∧ (s.reg a).toInt < 0) ∨ (i = .bltzal a offset ∧ 0 ≤ (s.reg a).toInt)) →
    (s.cfg.linkWhenNotTaken = .no → MovesPair s (exec i s) (s.npc + 4)) ∧
    (s.cfg.linkWhenNotTaken = .yes → LinksAndMoves s (exec i s) (s.pc + 8) (s.npc + 4)) ∧
    (s.cfg.linkWhenNotTaken = .draw → ∃ t, exec i s = .next t ∧
      (regWritten s t 31 (s.pc + 8) ∨ sameRegs s t) ∧ sameHiLo s t ∧ sameMemory s t ∧ pairIs s t (s.npc + 4) ∧
      t.cfg = s.cfg ∧ t.env = s.env)

/-- R130, R131 and R84: J and JAL go to the target field in the region of the delay slot's address; JAL links. -/
def Obligations.JumpsGoToTheTargetInTheDelaySlotsRegion : Prop :=
  ∀ (s : State) (target : Target), s.transfersAllowed →
    MovesPair s (exec (.j target) s) (s.npc.extractLsb' 28 4 ++ target ++ 0b00#2) ∧
    LinksAndMoves s (exec (.jal target) s) (s.pc + 8) (s.npc.extractLsb' 28 4 ++ target ++ 0b00#2)

/-- R132: JR moves the pair to the register's value, whatever it is, with no trap of its own. -/
def Obligations.JumpRegisterGoesToTheRegister : Prop :=
  ∀ (s : State) (a : Reg),
    (s.transfersAllowed → MovesPair s (exec (.jr a) s) (s.reg a)) ∧
    IsForm (.jr a) .jr [a.toNat] (0b000000#6 ++ a ++ 0b000000000000000#15 ++ 0b001000#6) 0xFC1FFFFF#32 0x00000008#32

/-- R133 and D20: under DELAY_SLOT_CTI = refuse the eleven branches and jumps, and no other instruction, are refused
when `npc` is not `pc + 4`. -/
def Obligations.TransfersInADelaySlotAreRefusedUnderThatSetting : Prop :=
  ∀ (i : Instr) (s : State), s.cfg.delaySlotCti = .refuse → s.npc ≠ s.pc + 4 →
    (isControlTransfer i = true ↔ exec i s = .refused (.controlTransferInDelaySlot s.pc))

/-- R120 and R222: after a taken branch or a jump the instruction at the old `npc` runs next, and unless it is a branch
or jump itself control is then at the target, whatever the slot's instruction wrote. -/
def Obligations.TheDelaySlotRunsBeforeTheTarget : Prop :=
  ∀ (i k : Instr) (s t u : State), isControlTransfer i = true → isControlTransfer k = false →
    exec i s = .next t → exec k t = .next u →
    t.pc = s.npc ∧ u.pc = npcAfter s i ∧ u.npc = npcAfter s i + 4

/-! ## Multiply, divide, HI and LO (spec/43_muldiv.md) -/

/-- R145, R146 and D9: MULT and MULTU execute in every state; LO is the low word of the exact product, HI by the
setting of MULT_HI, the high word of the signed or of the unsigned product where decided. -/
def Obligations.MultiplyWritesTheProduct : Prop :=
  ∀ (s : State) (a b : Reg) (i : Instr) (p : BitVec 64),
    ((i = .mult a b ∧ p = BitVec.ofInt 64 ((s.reg a).toInt * (s.reg b).toInt)) ∨
     (i = .multu a b ∧ p = BitVec.ofNat 64 ((s.reg a).toNat * (s.reg b).toNat))) →
    (s.cfg.multHi = .highWord → WritesHiLo s (exec i s) (p.extractLsb' 32 32) (p.extractLsb' 0 32)) ∧
    (s.cfg.multHi = .unchanged → WritesHiLo s (exec i s) s.hi (p.extractLsb' 0 32)) ∧
    (s.cfg.multHi = .any → ∃ t, exec i s = .next t ∧ t.lo = p.extractLsb' 0 32 ∧ sameRegs s t ∧ sameMemory s t ∧
      pairIs s t (s.npc + 4) ∧ t.cfg = s.cfg ∧ t.env = s.env)

/-- R145 and R146: MULT and MULTU leave the same LO, bit for bit. -/
def Obligations.SignedAndUnsignedMultiplyLeaveTheSameLow : Prop :=
  ∀ (s t u : State) (a b : Reg), exec (.mult a b) s = .next t → exec (.multu a b) s = .next u → t.lo = u.lo

/-- R141 and D10: DIV rounds toward zero and the remainder takes the dividend's sign, outside the two divisions without
a result. -/
def Obligations.DivideWritesQuotientAndRemainder : Prop :=
  ∀ (s : State) (a b : Reg), s.reg b ≠ 0 → ¬ (s.reg a = 0x80000000#32 ∧ s.reg b = 0xFFFFFFFF#32) →
    WritesHiLo s (exec (.div a b) s) (BitVec.ofInt 32 ((s.reg a).toInt.tmod (s.reg b).toInt))
      (BitVec.ofInt 32 ((s.reg a).toInt.tdiv (s.reg b).toInt))

/-- R142: DIVU writes the floor of the quotient and the remainder, the divisor not zero. -/
def Obligations.UnsignedDivideWritesQuotientAndRemainder : Prop :=
  ∀ (s : State) (a b : Reg), s.reg b ≠ 0 →
    WritesHiLo s (exec (.divu a b) s) (BitVec.ofNat 32 ((s.reg a).toNat % (s.reg b).toNat))
      (BitVec.ofNat 32 ((s.reg a).toNat / (s.reg b).toNat))

/-- R141: after DIV the numbers in HI and LO satisfy a = q * b + r exactly, |r| < |b|, and r is zero or has the sign of
a. -/
def Obligations.DivideSatisfiesTheDivisionIdentity : Prop :=
  ∀ (s t : State) (a b : Reg), s.reg b ≠ 0 → ¬ (s.reg a = 0x80000000#32 ∧ s.reg b = 0xFFFFFFFF#32) →
    exec (.div a b) s = .next t →
    (s.reg a).toInt = t.lo.toInt * (s.reg b).toInt + t.hi.toInt ∧
    t.hi.toInt.natAbs < (s.reg b).toInt.natAbs ∧
    (t.hi.toInt = 0 ∨ (t.hi.toInt < 0 ↔ (s.reg a).toInt < 0))

/-- R141, R142, D11, D12: a division without a result raises nothing. Under `any value` it completes, changing HI and LO
(to values nothing is said of, log 8) and the pair only; under `refuse` it is refused. -/
def Obligations.UndefinedDivisionsRunOnWithFreeResults : Prop :=
  ∀ (s : State) (a b : Reg) (i : Instr),
    ((i = .div a b ∧ (s.reg b = 0 ∨ (s.reg a = 0x80000000#32 ∧ s.reg b = 0xFFFFFFFF#32))) ∨
     (i = .divu a b ∧ s.reg b = 0)) →
    (s.cfg.divUndefined = .anyValue → ∃ t, exec i s = .next t ∧ sameRegs s t ∧ sameMemory s t ∧
      pairIs s t (s.npc + 4) ∧ t.cfg = s.cfg ∧ t.env = s.env) ∧
    (s.cfg.divUndefined = .refuse → exec i s = .refused (.undefinedDivision s.pc))

/-- R143 and R144: MFHI and MFLO execute in every state and copy HI or LO. -/
def Obligations.MovesFromHiAndLoCopy : Prop :=
  ∀ (s : State) (d : Reg),
    (WritesRegister s (exec (.mfhi d) s) d s.hi ∧
     IsForm (.mfhi d) .mfhi [d.toNat] (0b000000#6 ++ 0b0000000000#10 ++ d ++ 0b00000#5 ++ 0b010000#6)
       0xFFFF07FF#32 0x00000010#32) ∧
    (WritesRegister s (exec (.mflo d) s) d s.lo ∧
     IsForm (.mflo d) .mflo [d.toNat] (0b000000#6 ++ 0b0000000000#10 ++ d ++ 0b00000#5 ++ 0b010010#6)
       0xFFFF07FF#32 0x00000012#32)

/-! ## Loads and stores (spec/44_load_store.md) -/

/-- R151 and D7: LB reads one byte at base plus offset, at any alignment, and extends it by the setting of LB_EXT;
under the cautious one the two readings are possible where they differ (U9). -/
def Obligations.LoadByteWritesTheExtendedByte : Prop :=
  ∀ (s : State) (t a : Reg) (offset : Half) (b : Byte), s.mapped (s.reg a + offset.signExtend 32) = true →
    s.byteAt (s.reg a + offset.signExtend 32) = some b →
    (s.cfg.lbExt = .sign → WritesRegister s (exec (.lb t offset a) s) t (b.signExtend 32)) ∧
    (s.cfg.lbExt = .zero → WritesRegister s (exec (.lb t offset a) s) t (b.zeroExtend 32)) ∧
    (s.cfg.lbExt = .draw → ∃ u, exec (.lb t offset a) s = .next u ∧
      (regWritten s u t (b.signExtend 32) ∨ regWritten s u t (b.zeroExtend 32)) ∧ sameHiLo s u ∧ sameMemory s u ∧
      pairIs s u (s.npc + 4) ∧ u.cfg = s.cfg ∧ u.env = s.env)

/-- R152: LW reads the four bytes at an aligned address, put together by BYTE_ORDER. -/
def Obligations.LoadWordWritesTheAssembledWord : Prop :=
  ∀ (s : State) (t a : Reg) (offset : Half) (addr : Word) (b0 b1 b2 b3 : Byte),
    addr = s.reg a + offset.signExtend 32 → addr.extractLsb' 0 2 = 0 → s.mappedWord addr = true →
    s.byteAt addr = some b0 → s.byteAt (addr + 1) = some b1 → s.byteAt (addr + 2) = some b2 →
    s.byteAt (addr + 3) = some b3 →
    (s.cfg.byteOrder = .big → WritesRegister s (exec (.lw t offset a) s) t (b0 ++ b1 ++ b2 ++ b3)) ∧
    (s.cfg.byteOrder = .little → WritesRegister s (exec (.lw t offset a) s) t (b3 ++ b2 ++ b1 ++ b0))

/-- R153: SB stores the least significant byte at base plus offset, at any alignment, and changes no other byte, no
register and no HI or LO; outside MEM_MAP it raises BusError. -/
def Obligations.StoreByteStoresTheLowByte : Prop :=
  ∀ (s : State) (t a : Reg) (offset : Half) (addr : Word), addr = s.reg a + offset.signExtend 32 →
    (s.mapped addr = true → (s.cfg.textStores = .seen ∨ s.inText addr = false) →
      ∃ u, exec (.sb t offset a) s = .next u ∧ u.byteAt addr = some ((s.reg t).extractLsb' 0 8) ∧
        sameMemoryBut s u addr 1 ∧ sameRegs s u ∧ sameHiLo s u ∧ sameOwn s u ∧ pairIs s u (s.npc + 4)) ∧
    (s.mapped addr = false → exec (.sb t offset a) s = .fault (.busError .store addr s.pc)) ∧
    IsForm (.sb t offset a) .sb [t.toNat, offset.toInt, a.toNat] (0b101000#6 ++ a ++ t ++ offset)
      0xFC000000#32 0xA0000000#32

/-- R154: SW stores the register's four bytes at an aligned address in the order of BYTE_ORDER and changes nothing
else but the pair. -/
def Obligations.StoreWordStoresTheFourBytes : Prop :=
  ∀ (s : State) (t a : Reg) (offset : Half) (addr : Word), addr = s.reg a + offset.signExtend 32 →
    addr.extractLsb' 0 2 = 0 → s.mappedWord addr = true → (s.cfg.textStores = .seen ∨ s.wordInText addr = false) →
    ∃ u, exec (.sw t offset a) s = .next u ∧ loadWord u .load addr = .next (s.reg t) ∧
      (s.cfg.byteOrder = .big → u.byteAt addr = some ((s.reg t).extractLsb' 24 8) ∧
        u.byteAt (addr + 3) = some ((s.reg t).extractLsb' 0 8)) ∧
      (s.cfg.byteOrder = .little → u.byteAt addr = some ((s.reg t).extractLsb' 0 8) ∧
        u.byteAt (addr + 3) = some ((s.reg t).extractLsb' 24 8)) ∧
      sameMemoryBut s u addr 4 ∧ sameRegs s u ∧ sameHiLo s u ∧ sameOwn s u ∧ pairIs s u (s.npc + 4)

/-- R46, R150, R193, R195, R198 item 4: LW and SW test alignment before the map; LB and SB test the map only. After
both tests a load of a byte without a value stops (R50, D28; a fault of the model, log 4). -/
def Obligations.DataAccessesTrapInPriorityOrder : Prop :=
  ∀ (s : State) (t a : Reg) (offset : Half) (addr : Word), addr = s.reg a + offset.signExtend 32 →
    (addr.extractLsb' 0 2 ≠ 0 →
      exec (.lw t offset a) s = .fault (.addressError .load addr s.pc) ∧
      exec (.sw t offset a) s = .fault (.addressError .store addr s.pc)) ∧
    (addr.extractLsb' 0 2 = 0 → s.mappedWord addr = false →
      exec (.lw t offset a) s = .fault (.busError .load addr s.pc) ∧
      exec (.sw t offset a) s = .fault (.busError .store addr s.pc)) ∧
    (s.mapped addr = false →
      exec (.lb t offset a) s = .fault (.busError .load addr s.pc) ∧
      exec (.sb t offset a) s = .fault (.busError .store addr s.pc)) ∧
    (s.mapped addr = true → s.byteAt addr = none →
      exec (.lb t offset a) s = .fault (.unwrittenByte .load addr s.pc)) ∧
    (addr.extractLsb' 0 2 = 0 → s.mappedWord addr = true →
      (s.byteAt addr = none ∨ s.byteAt (addr + 1) = none ∨ s.byteAt (addr + 2) = none ∨ s.byteAt (addr + 3) = none) →
      exec (.lw t offset a) s = .fault (.unwrittenByte .load addr s.pc))

/-- R55 and D19: under the setting that refuses them, stores that reach TEXT are refused; else a store is seen by a
later fetch: a word SW stored by a fetch of its address, a byte SB stored by a fetch of the word it lies in, whose other
bytes are as before. -/
def Obligations.StoresIntoTextAreSeenByFetchOrRefused : Prop :=
  ∀ (s : State) (t a : Reg) (offset : Half) (addr : Word), addr = s.reg a + offset.signExtend 32 →
    (s.cfg.textStores = .refuse → s.mapped addr = true → s.inText addr = true →
      exec (.sb t offset a) s = .refused (.storeIntoText addr s.pc)) ∧
    (s.cfg.textStores = .refuse → addr.extractLsb' 0 2 = 0 → s.mappedWord addr = true → s.wordInText addr = true →
      exec (.sw t offset a) s = .refused (.storeIntoText addr s.pc)) ∧
    (∀ u v : State, exec (.sw t offset a) s = .next u → v.mem = u.mem → v.cfg = u.cfg → v.pc = addr →
      fetch v = .next (s.reg t)) ∧
    (∀ (u v : State) (k : Nat), exec (.sb t offset a) s = .next u → v.mem = u.mem → v.cfg = u.cfg →
      isAligned v.pc = true → v.mappedWord v.pc = true → k < 4 → addr = v.pc + BitVec.ofNat 32 k →
      (∀ j < 4, j ≠ k → (s.byteAt (v.pc + BitVec.ofNat 32 j)).isSome = true) →
      ∃ w, fetch v = .next w ∧ byteOfWord s.cfg.byteOrder w k = (s.reg t).extractLsb' 0 8 ∧
        ∀ j < 4, j ≠ k → s.byteAt (v.pc + BitVec.ofNat 32 j) = some (byteOfWord s.cfg.byteOrder w j))

/-! ## Shifts and NOOP (spec/45_shift.md) -/

/-- R160: NOOP advances the pair and nothing else; its word is all zero, decodes as SLL $0, $0, 0, and that instruction
does the same in every state. -/
def Obligations.NoopAdvancesThePairAndIsShiftOfZero : Prop :=
  (∀ s : State, MovesPair s (exec .noop s) (s.npc + 4) ∧ exec .noop s = exec (.sll 0 0 0) s) ∧
  assemble ⟨.noop, []⟩ = some .noop ∧ encode .noop = 0x00000000#32 ∧ decode 0x00000000#32 = .ok (.sll 0 0 0)

/-- R162, R164, R165: the shifts by a constant execute in every state. Bit by bit: zeros enter on the left shift at
bit 0 and on the logical right shift at bit 31, copies of bit 31 on the arithmetic one. -/
def Obligations.ConstantShiftsWriteTheShiftedWord : Prop :=
  ∀ (s : State) (d b : Reg) (h : Shamt),
    (∃ v : Word, WritesRegister s (exec (.sll d b h) s) d v ∧
      ∀ k < 32, v.getLsbD k = if k < h.toNat then false else (s.reg b).getLsbD (k - h.toNat)) ∧
    IsForm (.sll d b h) .sll [d.toNat, b.toNat, h.toNat] (0b000000#6 ++ 0b00000#5 ++ b ++ d ++ h ++ 0b000000#6)
      0xFC00003F#32 0x00000000#32 ∧
    (∀ x : BitVec 5, decode (0b000000#6 ++ x ++ b ++ d ++ h ++ 0b000000#6) = .ok (.sll d b h)) ∧
    (∃ v : Word, WritesRegister s (exec (.srl d b h) s) d v ∧
      ∀ k < 32, v.getLsbD k = if k + h.toNat < 32 then (s.reg b).getLsbD (k + h.toNat) else false) ∧
    (∃ v : Word, WritesRegister s (exec (.sra d b h) s) d v ∧
      ∀ k < 32, v.getLsbD k = if k + h.toNat < 32 then (s.reg b).getLsbD (k + h.toNat) else (s.reg b).getLsbD 31)

/-- R164 and R165: the right shifts are the floor of the quotient by 2^h, of the signed or of the unsigned number, and
R162's left shift is the product modulo 2^32. -/
def Obligations.ConstantShiftsAreProductsAndFloors : Prop :=
  ∀ (s : State) (d b : Reg) (h : Shamt),
    WritesRegister s (exec (.sra d b h) s) d (BitVec.ofInt 32 ((s.reg b).toInt / 2 ^ h.toNat)) ∧
    WritesRegister s (exec (.srl d b h) s) d (BitVec.ofNat 32 ((s.reg b).toNat / 2 ^ h.toNat)) ∧
    WritesRegister s (exec (.sll d b h) s) d (BitVec.ofNat 32 ((s.reg b).toNat * 2 ^ h.toNat))

/-- R163, R166 and D21: SLLV and SRLV under each setting of VAR_SHIFT_AMOUNT. -/
def Obligations.VariableShiftsUnderEachSetting : Prop :=
  ∀ (s : State) (d b a : Reg),
    (s.cfg.varShiftAmount = .low5 ∨ (s.cfg.varShiftAmount = .refuse ∧ (s.reg a).toNat < 32) →
      WritesRegister s (exec (.sllv d b a) s) d (BitVec.ofNat 32 ((s.reg b).toNat * 2 ^ ((s.reg a).toNat % 32))) ∧
      WritesRegister s (exec (.srlv d b a) s) d (BitVec.ofNat 32 ((s.reg b).toNat / 2 ^ ((s.reg a).toNat % 32)))) ∧
    (s.cfg.varShiftAmount = .full → (s.reg a).toNat < 32 →
      WritesRegister s (exec (.sllv d b a) s) d (BitVec.ofNat 32 ((s.reg b).toNat * 2 ^ (s.reg a).toNat)) ∧
      WritesRegister s (exec (.srlv d b a) s) d (BitVec.ofNat 32 ((s.reg b).toNat / 2 ^ (s.reg a).toNat))) ∧
    (s.cfg.varShiftAmount = .full → 32 ≤ (s.reg a).toNat →
      WritesRegister s (exec (.sllv d b a) s) d 0 ∧ WritesRegister s (exec (.srlv d b a) s) d 0) ∧
    (s.cfg.varShiftAmount = .refuse → 32 ≤ (s.reg a).toNat →
      exec (.sllv d b a) s = .refused (.shiftAmount s.pc) ∧ exec (.srlv d b a) s = .refused (.shiftAmount s.pc))

/-! ## Set on less than (spec/46_compare.md) -/

/-- R171 to R174: SLT, SLTI, SLTIU and SLTU execute in every state and write 1 or 0; SLTIU reads its sign-extended
immediate as unsigned (R80, C11). -/
def Obligations.SetOnLessThanWritesOneOrZero : Prop :=
  (∀ (s : State) (d a b : Reg),
    WritesRegister s (exec (.slt d a b) s) d (if (s.reg a).toInt < (s.reg b).toInt then 1 else 0) ∧
    IsForm (.slt d a b) .slt [d.toNat, a.toNat, b.toNat] (0b000000#6 ++ a ++ b ++ d ++ 0b00000#5 ++ 0b101010#6)
      0xFC0007FF#32 0x0000002A#32 ∧
    WritesRegister s (exec (.sltu d a b) s) d (if (s.reg a).toNat < (s.reg b).toNat then 1 else 0) ∧
    IsForm (.sltu d a b) .sltu [d.toNat, a.toNat, b.toNat] (0b000000#6 ++ a ++ b ++ d ++ 0b00000#5 ++ 0b101011#6)
      0xFC0007FF#32 0x0000002B#32) ∧
  (∀ (s : State) (t a : Reg) (imm : Half),
    WritesRegister s (exec (.slti t a imm) s) t (if (s.reg a).toInt < imm.toInt then 1 else 0) ∧
    IsForm (.slti t a imm) .slti [t.toNat, a.toNat, imm.toInt] (0b001010#6 ++ a ++ t ++ imm)
      0xFC000000#32 0x28000000#32 ∧
    WritesRegister s (exec (.sltiu t a imm) s) t
      (if (s.reg a).toNat < (imm.signExtend 32).toNat then 1 else 0))

/-! ## System call (spec/47_system.md) -/

/-- R180: when the environment answers Halt, and when none is supplied, SYSCALL ends the run with the trap
`Syscall(pc)`, the result attached; it is the one successful end (R228). -/
def Obligations.SyscallHaltsWithTheResultAttached : Prop :=
  ∀ s : State,
    (s.env = .absent → exec .syscall s = .fault (.syscall s.pc [])) ∧
    (∀ result, s.envAnswer = .halt result → exec .syscall s = .fault (.syscall s.pc result)) ∧
    (∀ (i : Instr) (f : Fault), exec i s = .fault f → (f.runEnd = .success ↔ i = .syscall))

/-- R180: when the environment resumes, the program continues after the SYSCALL with the pair advanced. HI and LO are
what the environment gave or as before; every register and every mapped byte it named has the last value it gave,
every other one is as before (`$0` reads 0; a byte outside MEM_MAP is no memory, log 6); parameters and free values are
untouched and the environment is what is left after its answer. -/
def Obligations.SyscallResumesAfterTheInstruction : Prop :=
  ∀ (s : State) (c : EnvChange), s.envAnswer = .resume c →
    ∃ t, exec .syscall s = .next t ∧ pairIs s t (s.npc + 4) ∧ t.hi = c.hi.getD s.hi ∧ t.lo = c.lo.getD s.lo ∧
      (∀ r : Reg, (∀ x ∈ c.regs, x.1 ≠ r) → t.reg r = s.reg r) ∧
      (∀ (first last : List (Reg × Word)) (r : Reg) (v : Word), c.regs = first ++ (r, v) :: last →
        (∀ x ∈ last, x.1 ≠ r) → t.reg r = if r = 0 then 0 else v) ∧
      (∀ a : Word, (∀ x ∈ c.mem, x.1 ≠ a) → t.byteAt a = s.byteAt a) ∧
      (∀ (first last : List (Word × Byte)) (a : Word) (b : Byte), c.mem = first ++ (a, b) :: last →
        (∀ x ∈ last, x.1 ≠ a) → t.byteAt a = if s.mapped a = true then some b else s.byteAt a) ∧
      t.cfg = s.cfg ∧ t.draws = s.draws ∧ t.env = s.envRest

/-- R180 with R20: an environment that is a function of the state makes the same of two states that agree in all it
sees (and in MEM_MAP). One that always resumes never halts; a script gives its answers in order. The three kinds are the
model's way to hold the open parameter (log 5). -/
def Obligations.EnvironmentsAnswerAsSupplied : Prop :=
  (∀ (s u : State) (k : Nat), s.env = .ofState k → u.env = .ofState k → s.view = u.view →
    s.cfg.memMap = u.cfg.memMap →
    (∃ result, exec .syscall s = .fault (.syscall s.pc result) ∧ exec .syscall u = .fault (.syscall s.pc result)) ∨
    (∃ t w, exec .syscall s = .next t ∧ exec .syscall u = .next w ∧ w.view = t.view ∧ t.env = .ofState k ∧
      w.env = .ofState k)) ∧
  (∀ (s : State) (c : EnvChange), s.env = .script [] (.resume c) →
    ∃ t, exec .syscall s = .next t ∧ t.env = .script [] (.resume c)) ∧
  (∀ (s : State) (c : EnvChange) (rest : List EnvAnswer) (after : EnvAnswer),
    s.env = .script (.resume c :: rest) after → ∃ t, exec .syscall s = .next t ∧ t.env = .script rest after)
end

