-- ==== Sys2Proof/Laws/Decode.lean ====
section
/-! SUPPORT. The fields of words in the formats of spec/30_encoding.md R74 to R77. -/

namespace Sys2Proof

@[simp] theorem fieldOp_encodeR (s t d : Reg) (h : Shamt) (f : BitVec 6) : fieldOp (encodeR s t d h f) = 0 := by
  apply BitVec.eq_of_getLsbD_eq; intro i hi
  simp only [fieldOp, encodeR, BitVec.getLsbD_extractLsb', BitVec.getLsbD_append]; simp; grind
@[simp] theorem fieldS_encodeR (s t d : Reg) (h : Shamt) (f : BitVec 6) : fieldS (encodeR s t d h f) = s := by
  apply BitVec.eq_of_getLsbD_eq; intro i hi
  simp only [fieldS, encodeR, BitVec.getLsbD_extractLsb', BitVec.getLsbD_append]; simp; grind
@[simp] theorem fieldT_encodeR (s t d : Reg) (h : Shamt) (f : BitVec 6) : fieldT (encodeR s t d h f) = t := by
  apply BitVec.eq_of_getLsbD_eq; intro i hi
  simp only [fieldT, encodeR, BitVec.getLsbD_extractLsb', BitVec.getLsbD_append]; simp; grind
@[simp] theorem fieldD_encodeR (s t d : Reg) (h : Shamt) (f : BitVec 6) : fieldD (encodeR s t d h f) = d := by
  apply BitVec.eq_of_getLsbD_eq; intro i hi
  simp only [fieldD, encodeR, BitVec.getLsbD_extractLsb', BitVec.getLsbD_append]; simp; grind
@[simp] theorem fieldH_encodeR (s t d : Reg) (h : Shamt) (f : BitVec 6) : fieldH (encodeR s t d h f) = h := by
  apply BitVec.eq_of_getLsbD_eq; intro i hi
  simp only [fieldH, encodeR, BitVec.getLsbD_extractLsb', BitVec.getLsbD_append]; simp; grind
@[simp] theorem fieldFunct_encodeR (s t d : Reg) (h : Shamt) (f : BitVec 6) :
    fieldFunct (encodeR s t d h f) = f := by
  apply BitVec.eq_of_getLsbD_eq; intro i hi
  simp only [fieldFunct, encodeR, BitVec.getLsbD_extractLsb', BitVec.getLsbD_append]; simp; grind

@[simp] theorem fieldOp_encodeI (op : BitVec 6) (s t : Reg) (imm : Half) : fieldOp (encodeI op s t imm) = op := by
  apply BitVec.eq_of_getLsbD_eq; intro i hi
  simp only [fieldOp, encodeI, BitVec.getLsbD_extractLsb', BitVec.getLsbD_append]; grind
@[simp] theorem fieldS_encodeI (op : BitVec 6) (s t : Reg) (imm : Half) : fieldS (encodeI op s t imm) = s := by
  apply BitVec.eq_of_getLsbD_eq; intro i hi
  simp only [fieldS, encodeI, BitVec.getLsbD_extractLsb', BitVec.getLsbD_append]; grind
@[simp] theorem fieldT_encodeI (op : BitVec 6) (s t : Reg) (imm : Half) : fieldT (encodeI op s t imm) = t := by
  apply BitVec.eq_of_getLsbD_eq; intro i hi
  simp only [fieldT, encodeI, BitVec.getLsbD_extractLsb', BitVec.getLsbD_append]; simp; grind
@[simp] theorem fieldImm_encodeI (op : BitVec 6) (s t : Reg) (imm : Half) :
    fieldImm (encodeI op s t imm) = imm := by
  apply BitVec.eq_of_getLsbD_eq; intro i hi
  simp only [fieldImm, encodeI, BitVec.getLsbD_extractLsb', BitVec.getLsbD_append]; simp; grind

@[simp] theorem fieldOp_encodeJ (op : BitVec 6) (target : Target) : fieldOp (encodeJ op target) = op := by
  apply BitVec.eq_of_getLsbD_eq; intro i hi
  simp only [fieldOp, encodeJ, BitVec.getLsbD_extractLsb', BitVec.getLsbD_append]; simp; grind
@[simp] theorem fieldTarget_encodeJ (op : BitVec 6) (target : Target) :
    fieldTarget (encodeJ op target) = target := by
  apply BitVec.eq_of_getLsbD_eq; intro i hi
  simp only [fieldTarget, encodeJ, BitVec.getLsbD_extractLsb', BitVec.getLsbD_append]; simp; grind

/-! ## Masking a word in a format -/

theorem encodeR_and (s t d : Reg) (h : Shamt) (f : BitVec 6) (m : Word) :
    encodeR s t d h f &&& m =
      encodeR (s &&& fieldS m) (t &&& fieldT m) (d &&& fieldD m) (h &&& fieldH m) (f &&& fieldFunct m) := by
  apply BitVec.eq_of_getLsbD_eq; intro i hi
  simp only [encodeR, fieldS, fieldT, fieldD, fieldH, fieldFunct, BitVec.getLsbD_extractLsb', BitVec.getLsbD_append,
    BitVec.getLsbD_and]
  grind

theorem encodeI_and (op : BitVec 6) (s t : Reg) (imm : Half) (m : Word) :
    encodeI op s t imm &&& m =
      encodeI (op &&& fieldOp m) (s &&& fieldS m) (t &&& fieldT m) (imm &&& fieldImm m) := by
  apply BitVec.eq_of_getLsbD_eq; intro i hi
  simp only [encodeI, fieldOp, fieldS, fieldT, fieldImm, BitVec.getLsbD_extractLsb', BitVec.getLsbD_append,
    BitVec.getLsbD_and]
  grind

theorem encodeJ_and (op : BitVec 6) (target : Target) (m : Word) :
    encodeJ op target &&& m = encodeJ (op &&& fieldOp m) (target &&& fieldTarget m) := by
  apply BitVec.eq_of_getLsbD_eq; intro i hi
  simp only [encodeJ, fieldOp, fieldTarget, BitVec.getLsbD_extractLsb', BitVec.getLsbD_append, BitVec.getLsbD_and]
  grind

end Sys2Proof
end

