-- ==== Sys2Proof/Laws/State.lean ====
section
/-! SUPPORT. One lemma per field per update of the state, and the register file's reads after writes. -/

namespace Sys2Proof.Machine

/-! ## `setReg` -/

@[simp] theorem State.setReg_hi (s : State) (r : Reg) (v : Word) : (s.setReg r v).hi = s.hi := by
  unfold State.setReg; split <;> rfl
@[simp] theorem State.setReg_lo (s : State) (r : Reg) (v : Word) : (s.setReg r v).lo = s.lo := by
  unfold State.setReg; split <;> rfl
@[simp] theorem State.setReg_pc (s : State) (r : Reg) (v : Word) : (s.setReg r v).pc = s.pc := by
  unfold State.setReg; split <;> rfl
@[simp] theorem State.setReg_npc (s : State) (r : Reg) (v : Word) : (s.setReg r v).npc = s.npc := by
  unfold State.setReg; split <;> rfl
@[simp] theorem State.setReg_mem (s : State) (r : Reg) (v : Word) : (s.setReg r v).mem = s.mem := by
  unfold State.setReg; split <;> rfl
@[simp] theorem State.setReg_cfg (s : State) (r : Reg) (v : Word) : (s.setReg r v).cfg = s.cfg := by
  unfold State.setReg; split <;> rfl
@[simp] theorem State.setReg_env (s : State) (r : Reg) (v : Word) : (s.setReg r v).env = s.env := by
  unfold State.setReg; split <;> rfl
@[simp] theorem State.setReg_draws (s : State) (r : Reg) (v : Word) : (s.setReg r v).draws = s.draws := by
  unfold State.setReg; split <;> rfl

/-- `$0` reads 0 (R21). -/
@[simp] theorem State.reg_zero (s : State) : s.reg 0 = 0 := rfl

/-- The register file read after a write (R10, R21): `$0` discards it. -/
theorem State.reg_setReg (s : State) (d r : Reg) (v : Word) :
    (s.setReg d v).reg r = if r = d ∧ d ≠ 0 then v else s.reg r := by
  by_cases hd : d = 0
  · simp [State.setReg, hd]
  have hd' : d.toNat ≠ 0 := fun h => hd (BitVec.eq_of_toNat_eq h)
  have hdl := d.isLt
  have hrl := r.isLt
  by_cases hrd : r = d
  · subst hrd
    rw [if_pos ⟨rfl, hd⟩]
    unfold State.reg State.setReg
    rw [if_neg hd, if_neg hd, Vector.getElem?_setIfInBounds_self_of_lt (by omega)]
    rfl
  · rw [if_neg (fun h => hrd h.1)]
    unfold State.reg State.setReg
    by_cases hr : r = 0
    · rw [if_pos hr, if_pos hr]
    · have hr' : r.toNat ≠ 0 := fun h => hr (BitVec.eq_of_toNat_eq h)
      have hne : d.toNat - 1 ≠ r.toNat - 1 := fun h => hrd (BitVec.eq_of_toNat_eq (by omega))
      rw [if_neg hr, if_neg hr, if_neg hd, Vector.getElem?_setIfInBounds_ne hne]

/-! ## Reads of the register file depend on the register file only -/

theorem State.reg_congr {s t : State} (h : s.regs = t.regs) (r : Reg) : s.reg r = t.reg r := by
  simp [State.reg, h]

/-! ## `setHiLo`, `jumpTo`, `advancePc`, `skipDraws`, `putByte` -/

@[simp] theorem State.setHiLo_hi (s : State) (h l : Word) : (s.setHiLo h l).hi = h := rfl
@[simp] theorem State.setHiLo_lo (s : State) (h l : Word) : (s.setHiLo h l).lo = l := rfl
@[simp] theorem State.setHiLo_pc (s : State) (h l : Word) : (s.setHiLo h l).pc = s.pc := rfl
@[simp] theorem State.setHiLo_npc (s : State) (h l : Word) : (s.setHiLo h l).npc = s.npc := rfl
@[simp] theorem State.setHiLo_mem (s : State) (h l : Word) : (s.setHiLo h l).mem = s.mem := rfl
@[simp] theorem State.setHiLo_cfg (s : State) (h l : Word) : (s.setHiLo h l).cfg = s.cfg := rfl
@[simp] theorem State.setHiLo_env (s : State) (h l : Word) : (s.setHiLo h l).env = s.env := rfl
@[simp] theorem State.setHiLo_draws (s : State) (h l : Word) : (s.setHiLo h l).draws = s.draws := rfl
@[simp] theorem State.setHiLo_reg (s : State) (h l : Word) (r : Reg) : (s.setHiLo h l).reg r = s.reg r := rfl

@[simp] theorem State.jumpTo_hi (s : State) (a : Word) : (s.jumpTo a).hi = s.hi := rfl
@[simp] theorem State.jumpTo_lo (s : State) (a : Word) : (s.jumpTo a).lo = s.lo := rfl
@[simp] theorem State.jumpTo_pc (s : State) (a : Word) : (s.jumpTo a).pc = s.npc := rfl
@[simp] theorem State.jumpTo_npc (s : State) (a : Word) : (s.jumpTo a).npc = a := rfl
@[simp] theorem State.jumpTo_mem (s : State) (a : Word) : (s.jumpTo a).mem = s.mem := rfl
@[simp] theorem State.jumpTo_cfg (s : State) (a : Word) : (s.jumpTo a).cfg = s.cfg := rfl
@[simp] theorem State.jumpTo_env (s : State) (a : Word) : (s.jumpTo a).env = s.env := rfl
@[simp] theorem State.jumpTo_draws (s : State) (a : Word) : (s.jumpTo a).draws = s.draws := rfl
@[simp] theorem State.jumpTo_reg (s : State) (a : Word) (r : Reg) : (s.jumpTo a).reg r = s.reg r := rfl

@[simp] theorem State.advancePc_hi (s : State) (n : Word) : (s.advancePc n).hi = s.hi := rfl
@[simp] theorem State.advancePc_lo (s : State) (n : Word) : (s.advancePc n).lo = s.lo := rfl
@[simp] theorem State.advancePc_pc (s : State) (n : Word) : (s.advancePc n).pc = s.npc := rfl
@[simp] theorem State.advancePc_npc (s : State) (n : Word) : (s.advancePc n).npc = s.npc + n := rfl
@[simp] theorem State.advancePc_mem (s : State) (n : Word) : (s.advancePc n).mem = s.mem := rfl
@[simp] theorem State.advancePc_cfg (s : State) (n : Word) : (s.advancePc n).cfg = s.cfg := rfl
@[simp] theorem State.advancePc_env (s : State) (n : Word) : (s.advancePc n).env = s.env := rfl
@[simp] theorem State.advancePc_draws (s : State) (n : Word) : (s.advancePc n).draws = s.draws := rfl
@[simp] theorem State.advancePc_reg (s : State) (n : Word) (r : Reg) : (s.advancePc n).reg r = s.reg r := rfl

@[simp] theorem State.skipDraws_hi (s : State) (n : Nat) : (s.skipDraws n).hi = s.hi := rfl
@[simp] theorem State.skipDraws_lo (s : State) (n : Nat) : (s.skipDraws n).lo = s.lo := rfl
@[simp] theorem State.skipDraws_pc (s : State) (n : Nat) : (s.skipDraws n).pc = s.pc := rfl
@[simp] theorem State.skipDraws_npc (s : State) (n : Nat) : (s.skipDraws n).npc = s.npc := rfl
@[simp] theorem State.skipDraws_mem (s : State) (n : Nat) : (s.skipDraws n).mem = s.mem := rfl
@[simp] theorem State.skipDraws_cfg (s : State) (n : Nat) : (s.skipDraws n).cfg = s.cfg := rfl
@[simp] theorem State.skipDraws_env (s : State) (n : Nat) : (s.skipDraws n).env = s.env := rfl
@[simp] theorem State.skipDraws_draws (s : State) (n : Nat) : (s.skipDraws n).draws = s.draws + n := rfl
@[simp] theorem State.skipDraws_reg (s : State) (n : Nat) (r : Reg) : (s.skipDraws n).reg r = s.reg r := rfl

@[simp] theorem State.putByte_hi (s : State) (a : Word) (b : Byte) : (s.putByte a b).hi = s.hi := rfl
@[simp] theorem State.putByte_lo (s : State) (a : Word) (b : Byte) : (s.putByte a b).lo = s.lo := rfl
@[simp] theorem State.putByte_pc (s : State) (a : Word) (b : Byte) : (s.putByte a b).pc = s.pc := rfl
@[simp] theorem State.putByte_npc (s : State) (a : Word) (b : Byte) : (s.putByte a b).npc = s.npc := rfl
@[simp] theorem State.putByte_mem (s : State) (a : Word) (b : Byte) :
    (s.putByte a b).mem = s.mem.write a.toNat b := rfl
@[simp] theorem State.putByte_cfg (s : State) (a : Word) (b : Byte) : (s.putByte a b).cfg = s.cfg := rfl
@[simp] theorem State.putByte_env (s : State) (a : Word) (b : Byte) : (s.putByte a b).env = s.env := rfl
@[simp] theorem State.putByte_draws (s : State) (a : Word) (b : Byte) : (s.putByte a b).draws = s.draws := rfl
@[simp] theorem State.putByte_reg (s : State) (a : Word) (b : Byte) (r : Reg) :
    (s.putByte a b).reg r = s.reg r := rfl

@[simp] theorem State.putWord_hi (s : State) (a v : Word) : (s.putWord a v).hi = s.hi := rfl
@[simp] theorem State.putWord_lo (s : State) (a v : Word) : (s.putWord a v).lo = s.lo := rfl
@[simp] theorem State.putWord_pc (s : State) (a v : Word) : (s.putWord a v).pc = s.pc := rfl
@[simp] theorem State.putWord_npc (s : State) (a v : Word) : (s.putWord a v).npc = s.npc := rfl
@[simp] theorem State.putWord_cfg (s : State) (a v : Word) : (s.putWord a v).cfg = s.cfg := rfl
@[simp] theorem State.putWord_env (s : State) (a v : Word) : (s.putWord a v).env = s.env := rfl
@[simp] theorem State.putWord_draws (s : State) (a v : Word) : (s.putWord a v).draws = s.draws := rfl
@[simp] theorem State.putWord_reg (s : State) (a v : Word) (r : Reg) : (s.putWord a v).reg r = s.reg r := rfl

/-! ## `finishReg` -/

@[simp] theorem finishReg_hi (s : State) (d : Reg) (v : Word) : (finishReg s d v).hi = s.hi := by simp [finishReg]
@[simp] theorem finishReg_lo (s : State) (d : Reg) (v : Word) : (finishReg s d v).lo = s.lo := by simp [finishReg]
@[simp] theorem finishReg_pc (s : State) (d : Reg) (v : Word) : (finishReg s d v).pc = s.npc := by simp [finishReg]
@[simp] theorem finishReg_npc (s : State) (d : Reg) (v : Word) : (finishReg s d v).npc = s.npc + 4 := by
  simp [finishReg]
@[simp] theorem finishReg_mem (s : State) (d : Reg) (v : Word) : (finishReg s d v).mem = s.mem := by
  simp [finishReg]
@[simp] theorem finishReg_cfg (s : State) (d : Reg) (v : Word) : (finishReg s d v).cfg = s.cfg := by
  simp [finishReg]
@[simp] theorem finishReg_env (s : State) (d : Reg) (v : Word) : (finishReg s d v).env = s.env := by
  simp [finishReg]
@[simp] theorem finishReg_draws (s : State) (d : Reg) (v : Word) : (finishReg s d v).draws = s.draws := by
  simp [finishReg]

theorem finishReg_reg (s : State) (d r : Reg) (v : Word) :
    (finishReg s d v).reg r = if r = d ∧ d ≠ 0 then v else s.reg r := by
  simp [finishReg, State.reg_setReg]

/-! ## `launch` -/

@[simp] theorem State.launch_pc (l : Launch) : (State.launch l).pc = l.cfg.resetPc := rfl
@[simp] theorem State.launch_npc (l : Launch) : (State.launch l).npc = l.cfg.resetPc + 4 := rfl
@[simp] theorem State.launch_regs (l : Launch) : (State.launch l).regs = l.regs := rfl
@[simp] theorem State.launch_hi (l : Launch) : (State.launch l).hi = l.hi := rfl
@[simp] theorem State.launch_lo (l : Launch) : (State.launch l).lo = l.lo := rfl
@[simp] theorem State.launch_mem (l : Launch) : (State.launch l).mem = l.mem := rfl
@[simp] theorem State.launch_cfg (l : Launch) : (State.launch l).cfg = l.cfg := rfl
@[simp] theorem State.launch_env (l : Launch) : (State.launch l).env = l.env := rfl
@[simp] theorem State.launch_draws (l : Launch) : (State.launch l).draws = 0 := rfl

/-! ## `view`, `envAnswer` and `envRest` -/

@[simp] theorem State.view_regs (s : State) : s.view.regs = s.regs := rfl
@[simp] theorem State.view_hi (s : State) : s.view.hi = s.hi := rfl
@[simp] theorem State.view_lo (s : State) : s.view.lo = s.lo := rfl
@[simp] theorem State.view_pc (s : State) : s.view.pc = s.pc := rfl
@[simp] theorem State.view_npc (s : State) : s.view.npc = s.npc := rfl
@[simp] theorem State.view_mem (s : State) : s.view.mem = s.mem := rfl

/-- With no environment supplied, Halt with nothing attached (R180). -/
theorem State.envAnswer_absent {s : State} (h : s.env = .absent) : s.envAnswer = .halt [] := by
  simp [State.envAnswer, h]

theorem State.envAnswer_ofState {s : State} {k : Nat} (h : s.env = .ofState k) :
    s.envAnswer = Config.environment k s.view := by
  simp [State.envAnswer, h]

theorem State.envAnswer_script_nil {s : State} {after : EnvAnswer} (h : s.env = .script [] after) :
    s.envAnswer = after := by
  simp [State.envAnswer, h]

theorem State.envAnswer_script_cons {s : State} {a after : EnvAnswer} {rest : List EnvAnswer}
    (h : s.env = .script (a :: rest) after) : s.envAnswer = a := by
  simp [State.envAnswer, h]

end Sys2Proof.Machine
end

