-- ==== Sys2Proof/Laws/Memory.lean ====
section
/-! SUPPORT. Memory: reads after writes, and the canonical form is kept by every operation (spec/20_memory.md R44,
R49). -/

namespace Sys2Proof.Machine

/-- Reading after a write: the written address gives the value, every other address what it gave before. -/
theorem Memory.read?_write (m : Memory) (a x : Nat) (b : Byte) :
    (m.write a b).read? x = if x = a then some b else m.read? x := by
  induction m with
  | nil => simp [Memory.write, Memory.read?, eq_comm]
  | cons c rest ih =>
    obtain ⟨k, v⟩ := c
    grind [Memory.write, Memory.read?]

/-- Every entry after a write is the written one or was there before. -/
theorem Memory.mem_write {m : Memory} {a : Nat} {b : Byte} {c : Host.Cell} (h : c ∈ m.write a b) :
    c = (a, b) ∨ c ∈ m := by
  induction m with
  | nil => simpa [Memory.write] using h
  | cons d rest ih =>
    obtain ⟨k, v⟩ := d
    simp only [Memory.write] at h
    split at h
    · simpa using h
    · split at h
      · rcases List.mem_cons.1 h with h | h
        · exact .inl h
        · exact .inr (List.mem_cons_of_mem _ h)
      · rcases List.mem_cons.1 h with h | h
        · exact .inr (by simp [h])
        · rcases ih h with h | h
          · exact .inl h
          · exact .inr (List.mem_cons_of_mem _ h)

/-- A write keeps the addresses strictly rising. -/
theorem Memory.write_pairwise {m : Memory} (a : Nat) (b : Byte) (h : m.Pairwise (fun x y => x.1 < y.1)) :
    (m.write a b).Pairwise (fun x y => x.1 < y.1) := by
  induction m with
  | nil => simp [Memory.write]
  | cons d rest ih =>
    obtain ⟨k, v⟩ := d
    obtain ⟨hk, hrest⟩ := List.pairwise_cons.1 h
    simp only [Memory.write]
    split
    · rename_i hlt
      refine List.pairwise_cons.2 ⟨fun c hc => ?_, h⟩
      rcases List.mem_cons.1 hc with rfl | hc
      · exact hlt
      · exact Nat.lt_trans hlt (hk c hc)
    · split
      · rename_i hak; subst hak
        exact List.pairwise_cons.2 ⟨fun c hc => hk c hc, hrest⟩
      · rename_i h1 h2
        refine List.pairwise_cons.2 ⟨fun c hc => ?_, ih hrest⟩
        rcases Memory.mem_write hc with rfl | hc
        · simp only; omega
        · exact hk c hc

/-- A write inside the address space keeps the canonical form. -/
theorem Memory.write_wf {m : Memory} {a : Nat} (b : Byte) (h : m.WF) (ha : a < 2 ^ 32) : (m.write a b).WF :=
  ⟨Memory.write_pairwise a b h.1, fun c hc => by
    rcases Memory.mem_write hc with rfl | hc
    · exact ha
    · exact h.2 c hc⟩

/-- `putByte` keeps the canonical form. -/
theorem State.putByte_wf {s : State} (a : Word) (b : Byte) (h : s.mem.WF) : (s.putByte a b).mem.WF :=
  Memory.write_wf b h a.isLt

/-- `putWord` keeps the canonical form. -/
theorem State.putWord_wf {s : State} (a v : Word) (h : s.mem.WF) : (s.putWord a v).mem.WF :=
  State.putByte_wf _ _ (State.putByte_wf _ _ (State.putByte_wf _ _ (State.putByte_wf _ _ h)))

/-- The byte at an address after `putByte`. -/
theorem State.byteAt_putByte (s : State) (a x : Word) (b : Byte) :
    (s.putByte a b).byteAt x = if x = a then some b else s.byteAt x := by
  simp [State.byteAt, Memory.read?_write, BitVec.toNat_inj]

/-- The bytes of memory depend on memory only. -/
theorem State.byteAt_congr {s t : State} (h : s.mem = t.mem) (a : Word) : s.byteAt a = t.byteAt a := by
  simp [State.byteAt, h]

/-- The byte at an address after `putWord`: the last of the four writes that reached it, else as before. -/
theorem State.byteAt_putWord (s : State) (a v x : Word) :
    (s.putWord a v).byteAt x =
      if x = a + 3 then some (byteOfWord s.cfg.byteOrder v 3)
      else if x = a + 2 then some (byteOfWord s.cfg.byteOrder v 2)
      else if x = a + 1 then some (byteOfWord s.cfg.byteOrder v 1)
      else if x = a then some (byteOfWord s.cfg.byteOrder v 0)
      else s.byteAt x := by
  simp only [State.putWord, State.byteAt_putByte]

/-- The four bytes of a word put together again give the word, in either byte order (R44). -/
theorem wordOfBytes_byteOfWord (order : ByteOrder) (v : Word) :
    wordOfBytes order (byteOfWord order v 0) (byteOfWord order v 1) (byteOfWord order v 2) (byteOfWord order v 3) =
      v := by
  cases order <;>
    (simp only [wordOfBytes, byteOfWord]
     apply BitVec.eq_of_getLsbD_eq
     intro i hi
     simp only [BitVec.getLsbD_append, BitVec.getLsbD_extractLsb']
     have : i < 8 ∨ (8 ≤ i ∧ i < 16) ∨ (16 ≤ i ∧ i < 24) ∨ (24 ≤ i ∧ i < 32) := by omega
     rcases this with h | h | h | h <;> simp <;> grind)

end Sys2Proof.Machine
end

