-- ==== Sys2Proof/Laws/Ops.lean ====
section
/-! SUPPORT. What each shared operation can do, said once: the lemmas that proofs about instructions cite instead of
unfolding the operations. -/

namespace Sys2Proof.Machine

/-! ## Sequencing -/

@[simp] theorem andThen_next {α β : Type} (a : α) (k : α → Res β) : andThen (.next a) k = k a := rfl
@[simp] theorem andThen_fault {α β : Type} (f : Fault) (k : α → Res β) : andThen (.fault f) k = .fault f := rfl
@[simp] theorem andThen_refused {α β : Type} (r : Refusal) (k : α → Res β) :
    andThen (.refused r) k = .refused r := rfl
@[simp] theorem trap_eq {α : Type} (f : Fault) : (trap f : Res α) = .fault f := rfl

theorem andThen_eq_next {α β : Type} {r : Res α} {k : α → Res β} {b : β} :
    andThen r k = .next b ↔ ∃ a, r = .next a ∧ k a = .next b := by
  cases r <;> simp [andThen]

theorem andThen_eq_fault {α β : Type} {r : Res α} {k : α → Res β} {f : Fault} :
    andThen r k = .fault f ↔ r = .fault f ∨ ∃ a, r = .next a ∧ k a = .fault f := by
  cases r <;> simp [andThen]

theorem andThen_eq_refused {α β : Type} {r : Res α} {k : α → Res β} {x : Refusal} :
    andThen r k = .refused x ↔ r = .refused x ∨ ∃ a, r = .next a ∧ k a = .refused x := by
  cases r <;> simp [andThen]

/-! ## Loads -/

theorem loadByte_eq_next {s : State} {kind : Access} {a : Word} {b : Byte} :
    loadByte s kind a = .next b ↔ s.mapped a = true ∧ s.byteAt a = some b := by
  unfold loadByte; split <;> [split; skip] <;> simp_all

theorem loadByte_eq_fault {s : State} {kind : Access} {a : Word} {f : Fault} :
    loadByte s kind a = .fault f ↔
      (s.mapped a = false ∧ f = .busError kind a s.pc) ∨
      (s.mapped a = true ∧ s.byteAt a = none ∧ f = .unwrittenByte kind a s.pc) := by
  unfold loadByte; split <;> [split; skip] <;> grind [trap]

theorem loadByte_ne_refused {s : State} {kind : Access} {a : Word} {x : Refusal} :
    loadByte s kind a ≠ .refused x := by
  unfold loadByte; split <;> [split; skip] <;> simp

/-- The four bytes at an address hold these values. -/
abbrev State.bytesAre (s : State) (a : Word) (b0 b1 b2 b3 : Byte) : Prop :=
  s.byteAt a = some b0 ∧ s.byteAt (a + 1) = some b1 ∧ s.byteAt (a + 2) = some b2 ∧ s.byteAt (a + 3) = some b3

theorem loadWord_eq_next {s : State} {kind : Access} {a v : Word} :
    loadWord s kind a = .next v ↔
      s.mappedWord a = true ∧ ∃ b0 b1 b2 b3, s.bytesAre a b0 b1 b2 b3 ∧
        v = wordOfBytes s.cfg.byteOrder b0 b1 b2 b3 := by
  unfold loadWord
  split
  · split
    · grind [trap]
    · rename_i h
      simp only [trap_eq, reduceCtorEq, false_iff, not_and, not_exists]
      rintro - b0 b1 b2 b3 ⟨h0, h1, h2, h3⟩
      exact absurd h3 (fun h3 => h b0 b1 b2 b3 h0 h1 h2 h3)
  · simp_all

theorem loadWord_fault_cases {s : State} {kind : Access} {a : Word} {f : Fault} (h : loadWord s kind a = .fault f) :
    (s.mappedWord a = false ∧ f = .busError kind a s.pc) ∨
      (s.mappedWord a = true ∧ f = .unwrittenByte kind a s.pc) := by
  unfold loadWord at h; split at h <;> [split at h; skip] <;> grind [trap]

theorem loadWord_ne_refused {s : State} {kind : Access} {a : Word} {x : Refusal} :
    loadWord s kind a ≠ .refused x := by
  unfold loadWord; split <;> [split; skip] <;> simp

theorem loadAligned_eq_next {s : State} {kind : Access} {a v : Word} :
    loadAligned s kind a = .next v ↔ isAligned a = true ∧ loadWord s kind a = .next v := by
  unfold loadAligned; split <;> simp_all

theorem loadAligned_fault_cases {s : State} {kind : Access} {a : Word} {f : Fault}
    (h : loadAligned s kind a = .fault f) :
    (isAligned a = false ∧ f = .addressError kind a s.pc) ∨
      (isAligned a = true ∧ s.mappedWord a = false ∧ f = .busError kind a s.pc) ∨
      (isAligned a = true ∧ s.mappedWord a = true ∧ f = .unwrittenByte kind a s.pc) := by
  unfold loadAligned at h
  split at h
  · rcases loadWord_fault_cases h with h | h <;> simp_all
  · grind [trap]

theorem loadAligned_ne_refused {s : State} {kind : Access} {a : Word} {x : Refusal} :
    loadAligned s kind a ≠ .refused x := by
  unfold loadAligned; split
  · exact loadWord_ne_refused
  · simp

/-! ## Stores -/

theorem storeByte_eq_next {s t : State} {a : Word} {b : Byte} :
    storeByte s a b = .next t ↔
      s.mapped a = true ∧ ¬ (s.cfg.textStores = .refuse ∧ s.inText a = true) ∧ t = s.putByte a b := by
  unfold storeByte; split <;> [split; skip] <;> grind [trap]

theorem storeByte_eq_fault {s : State} {a : Word} {b : Byte} {f : Fault} :
    storeByte s a b = .fault f ↔ s.mapped a = false ∧ f = .busError .store a s.pc := by
  unfold storeByte; split <;> [split; skip] <;> grind [trap]

theorem storeWord_eq_next {s t : State} {a v : Word} :
    storeWord s a v = .next t ↔
      s.mappedWord a = true ∧ ¬ (s.cfg.textStores = .refuse ∧ s.wordInText a = true) ∧ t = s.putWord a v := by
  unfold storeWord; split <;> [split; skip] <;> grind [trap]

theorem storeWord_eq_fault {s : State} {a v : Word} {f : Fault} :
    storeWord s a v = .fault f ↔ s.mappedWord a = false ∧ f = .busError .store a s.pc := by
  unfold storeWord; split <;> [split; skip] <;> grind [trap]

theorem storeAligned_eq_next {s t : State} {a v : Word} :
    storeAligned s a v = .next t ↔ isAligned a = true ∧ storeWord s a v = .next t := by
  unfold storeAligned; split <;> simp_all

theorem storeAligned_eq_fault {s : State} {a v : Word} {f : Fault} :
    storeAligned s a v = .fault f ↔
      (isAligned a = false ∧ f = .addressError .store a s.pc) ∨
      (isAligned a = true ∧ s.mappedWord a = false ∧ f = .busError .store a s.pc) := by
  unfold storeAligned; split
  · simp_all [storeWord_eq_fault]
  · grind [trap]

theorem storeByte_refused_cases {s : State} {a : Word} {b : Byte} {x : Refusal} (h : storeByte s a b = .refused x) :
    s.cfg.textStores = .refuse := by
  unfold storeByte at h; split at h <;> [split at h; skip] <;> simp_all

theorem storeAligned_refused_cases {s : State} {a v : Word} {x : Refusal} (h : storeAligned s a v = .refused x) :
    s.cfg.textStores = .refuse := by
  unfold storeAligned storeWord at h
  split at h <;> [(split at h <;> [split at h; skip]); skip] <;> simp_all

/-! ## Arithmetic, branches and division -/

theorem finishSigned_eq_next {s t : State} {d : Reg} {e : Int} :
    finishSigned s d e = .next t ↔ signedOverflow e = false ∧ t = finishReg s d (BitVec.ofInt 32 e) := by
  unfold finishSigned; split <;> grind [trap]

theorem finishSigned_eq_fault {s : State} {d : Reg} {e : Int} {f : Fault} :
    finishSigned s d e = .fault f ↔ signedOverflow e = true ∧ f = .overflow s.pc := by
  unfold finishSigned; split <;> grind [trap]

theorem finishSigned_ne_refused {s : State} {d : Reg} {e : Int} {x : Refusal} :
    finishSigned s d e ≠ .refused x := by
  unfold finishSigned; split <;> simp

theorem controlTransfer_eq_next {s a t : State} :
    controlTransfer s a = .next t ↔ ¬ (s.cfg.delaySlotCti = .refuse ∧ s.npc ≠ s.pc + 4) ∧ t = a := by
  unfold controlTransfer; split <;> grind [trap]

theorem controlTransfer_ne_fault {s a : State} {f : Fault} : controlTransfer s a ≠ .fault f := by
  unfold controlTransfer; split <;> simp

theorem controlTransfer_refused_cases {s a : State} {x : Refusal} (h : controlTransfer s a = .refused x) :
    s.cfg.delaySlotCti = .refuse ∧ s.npc ≠ s.pc + 4 ∧ x = .controlTransferInDelaySlot s.pc := by
  unfold controlTransfer at h; split at h <;> grind [trap]

theorem finishUndefinedDivision_eq_next {s t : State} :
    finishUndefinedDivision s = .next t ↔
      s.cfg.divUndefined = .anyValue ∧ t = finishHiLo (s.skipDraws 2) (s.anyWord 1) (s.anyWord 0) := by
  unfold finishUndefinedDivision; split <;> grind [trap]

theorem finishUndefinedDivision_ne_fault {s : State} {f : Fault} : finishUndefinedDivision s ≠ .fault f := by
  unfold finishUndefinedDivision; split <;> simp

theorem logicalImm_cases {s : State} {imm : Half} {m : Word} (h : logicalImm s imm = .next m) :
    (s.cfg.logicalImmExt = .zero ∧ m = zext imm) ∨ (s.cfg.logicalImmExt = .sign ∧ m = sext imm) ∨
      (s.cfg.logicalImmExt = .refuse ∧ imm.msb = false ∧ m = zext imm) := by
  unfold logicalImm at h; split at h <;> [skip; skip; split at h] <;> grind [trap]

theorem logicalImm_ne_fault {s : State} {imm : Half} {f : Fault} : logicalImm s imm ≠ .fault f := by
  unfold logicalImm; split <;> [skip; skip; split] <;> simp

theorem variableAmount_cases {s : State} {v : Word} {n : Nat} (h : variableAmount s v = .next n) :
    (s.cfg.varShiftAmount = .low5 ∧ n = (v.extractLsb' 0 5).toNat) ∨ (s.cfg.varShiftAmount = .full ∧ n = v.toNat) ∨
      (s.cfg.varShiftAmount = .refuse ∧ v.toNat < 32 ∧ n = v.toNat) := by
  unfold variableAmount at h; split at h <;> [skip; skip; split at h] <;> grind [trap]

theorem variableAmount_ne_fault {s : State} {v : Word} {f : Fault} : variableAmount s v ≠ .fault f := by
  unfold variableAmount; split <;> [skip; skip; split] <;> simp

/-! ## The environment -/

theorem State.setRegs_keeps (s : State) (l : List (Reg × Word)) :
    (s.setRegs l).hi = s.hi ∧ (s.setRegs l).lo = s.lo ∧ (s.setRegs l).pc = s.pc ∧ (s.setRegs l).npc = s.npc ∧
      (s.setRegs l).mem = s.mem ∧ (s.setRegs l).cfg = s.cfg ∧ (s.setRegs l).env = s.env ∧
      (s.setRegs l).draws = s.draws := by
  induction l generalizing s with
  | nil => simp [State.setRegs]
  | cons c rest ih => simpa [State.setRegs] using ih (s.setReg c.1 c.2)

theorem State.putBytes_keeps (s : State) (l : List (Word × Byte)) :
    (s.putBytes l).regs = s.regs ∧ (s.putBytes l).hi = s.hi ∧ (s.putBytes l).lo = s.lo ∧ (s.putBytes l).pc = s.pc ∧
      (s.putBytes l).npc = s.npc ∧ (s.putBytes l).cfg = s.cfg ∧ (s.putBytes l).env = s.env ∧
      (s.putBytes l).draws = s.draws := by
  induction l generalizing s with
  | nil => simp [State.putBytes]
  | cons c rest ih =>
    simp only [State.putBytes]
    split
    · exact ih (s.putByte c.1 c.2)
    · exact ih s

theorem State.setRegs_append (s : State) (l l' : List (Reg × Word)) :
    s.setRegs (l ++ l') = (s.setRegs l).setRegs l' := by
  induction l generalizing s with
  | nil => rfl
  | cons c rest ih => exact ih (s.setReg c.1 c.2)

/-- A register the environment does not name reads as before. -/
theorem State.reg_setRegs_of_not_named (s : State) {l : List (Reg × Word)} {r : Reg} (h : ∀ x ∈ l, x.1 ≠ r) :
    (s.setRegs l).reg r = s.reg r := by
  induction l generalizing s with
  | nil => rfl
  | cons c rest ih =>
    rw [List.forall_mem_cons] at h
    rw [State.setRegs, ih _ h.2, State.reg_setReg, if_neg fun hr => h.1 hr.1.symm]

theorem State.putBytes_append (s : State) (l l' : List (Word × Byte)) :
    s.putBytes (l ++ l') = (s.putBytes l).putBytes l' := by
  induction l generalizing s with
  | nil => rfl
  | cons c rest ih => exact ih _

/-- A byte the environment does not name is as before. -/
theorem State.byteAt_putBytes_of_not_named (s : State) {l : List (Word × Byte)} {a : Word} (h : ∀ x ∈ l, x.1 ≠ a) :
    (s.putBytes l).byteAt a = s.byteAt a := by
  induction l generalizing s with
  | nil => rfl
  | cons c rest ih =>
    rw [List.forall_mem_cons] at h
    rw [State.putBytes, ih _ h.2]
    split
    · rw [State.byteAt_putByte, if_neg h.1.symm]
    · rfl

/-- The environment's memory writes keep the canonical form. -/
theorem State.putBytes_wf {s : State} (l : List (Word × Byte)) (h : s.mem.WF) : (s.putBytes l).mem.WF := by
  induction l generalizing s with
  | nil => exact h
  | cons c rest ih =>
    refine ih ?_
    split
    · exact State.putByte_wf _ _ h
    · exact h

/-- Every field of the state a resumed SYSCALL leaves, but for the register file and memory. -/
theorem resumeSyscall_keeps (s : State) (c : EnvChange) :
    (resumeSyscall s c).pc = s.npc ∧ (resumeSyscall s c).npc = s.npc + 4 ∧
      (resumeSyscall s c).hi = c.hi.getD s.hi ∧ (resumeSyscall s c).lo = c.lo.getD s.lo ∧
      (resumeSyscall s c).cfg = s.cfg ∧ (resumeSyscall s c).env = s.envRest ∧
      (resumeSyscall s c).draws = s.draws := by
  have hr := State.setRegs_keeps s c.regs
  have hb := State.putBytes_keeps ((s.setRegs c.regs).setHiLo (c.hi.getD s.hi) (c.lo.getD s.lo)) c.mem
  simp [resumeSyscall, State.applyEnv, hr, hb]

theorem resumeSyscall_reg (s : State) (c : EnvChange) (r : Reg) :
    (resumeSyscall s c).reg r = (s.setRegs c.regs).reg r :=
  State.reg_congr (State.putBytes_keeps _ c.mem).1 r

theorem execSyscall_eq_next {s t : State} :
    execSyscall s = .next t ↔ ∃ c, s.envAnswer = .resume c ∧ t = resumeSyscall s c := by
  unfold execSyscall; split <;> grind [trap]

theorem execSyscall_eq_fault {s : State} {f : Fault} :
    execSyscall s = .fault f ↔ ∃ result, s.envAnswer = .halt result ∧ f = .syscall s.pc result := by
  unfold execSyscall; split <;> grind [trap]

theorem execSyscall_ne_refused {s : State} {x : Refusal} : execSyscall s ≠ .refused x := by
  unfold execSyscall; split <;> simp

/-! ## One step -/

/-- What a step does when it answers a next state: the word at `pc` was fetched, it decodes, and its instruction's
rule gives that state. -/
theorem step_eq_next {s t : State} (h : step s = .next t) :
    ∃ w i, fetch s = .next w ∧ decode w = .ok i ∧ exec i s = .next t := by
  obtain ⟨w, hw, h⟩ := andThen_eq_next.1 h
  split at h
  · exact ⟨w, _, hw, by assumption, h⟩
  · simp at h

end Sys2Proof.Machine
end

