-- ==== Sys2Proof/Laws/PerInstr.lean ====
section
/-! SUPPORT. Facts made per instruction. Family RowMatch: the word the encoder gives has the fixed bits of the
instruction's row of spec/opcode_table.json. Each lemma cites the one for its shape of mask, its row's columns read off
by rfl. -/

namespace Sys2Proof.Laws

/-- The encoded instruction matches its row's mask and match (spec/30_encoding.md R78). -/
def RowMatch.Statement (i : Instr) : Prop := (opcodeRow i.mnemonic).matches (encode i) = true

/-! ## One lemma per shape of mask -/

theorem and_all_six (f : BitVec 6) : f &&& 63#6 = f := BitVec.and_allOnes

theorem and_all_five (x : BitVec 5) : x &&& 31#5 = x := BitVec.and_allOnes

/-- Format R with op, bits 10:6 and funct fixed. -/
theorem matches_r3 {row : OpcodeRow} {f : BitVec 6} (hm : row.mask = 0xfc0007ff#32) (hb : row.bits = encodeR 0 0 0 0 f)
    {s t d : Reg} : row.matches (encodeR s t d 0 f) = true := by
  simp [OpcodeRow.matches, hm, hb, encodeR_and, fieldS, fieldT, fieldD, fieldH, fieldFunct, and_all_six]

/-- Format R with op and funct fixed. -/
theorem matches_rFree {row : OpcodeRow} {f : BitVec 6} (hm : row.mask = 0xfc00003f#32)
    (hb : row.bits = encodeR 0 0 0 0 f) {s t d : Reg} {h : Shamt} : row.matches (encodeR s t d h f) = true := by
  simp [OpcodeRow.matches, hm, hb, encodeR_and, fieldS, fieldT, fieldD, fieldH, fieldFunct, and_all_six]

/-- Format R with op, bits 15:6 and funct fixed. -/
theorem matches_r2 {row : OpcodeRow} {f : BitVec 6} (hm : row.mask = 0xfc00ffff#32) (hb : row.bits = encodeR 0 0 0 0 f)
    {s t : Reg} : row.matches (encodeR s t 0 0 f) = true := by
  simp [OpcodeRow.matches, hm, hb, encodeR_and, fieldS, fieldT, fieldD, fieldH, fieldFunct, and_all_six]

/-- Format R with all but bits 25:21 fixed. -/
theorem matches_rJr {row : OpcodeRow} {f : BitVec 6} (hm : row.mask = 0xfc1fffff#32) (hb : row.bits = encodeR 0 0 0 0 f)
    {s : Reg} : row.matches (encodeR s 0 0 0 f) = true := by
  simp [OpcodeRow.matches, hm, hb, encodeR_and, fieldS, fieldT, fieldD, fieldH, fieldFunct, and_all_six]

/-- Format R with all but bits 15:11 fixed. -/
theorem matches_rMove {row : OpcodeRow} {f : BitVec 6} (hm : row.mask = 0xffff07ff#32)
    (hb : row.bits = encodeR 0 0 0 0 f) {d : Reg} : row.matches (encodeR 0 0 d 0 f) = true := by
  simp [OpcodeRow.matches, hm, hb, encodeR_and, fieldS, fieldT, fieldD, fieldH, fieldFunct, and_all_six]

/-- Format I: op fixed. -/
theorem matches_i {row : OpcodeRow} {op : BitVec 6} (hm : row.mask = 0xfc000000#32) (hb : row.bits = encodeI op 0 0 0)
    {s t : Reg} {imm : Half} : row.matches (encodeI op s t imm) = true := by
  simp [OpcodeRow.matches, hm, hb, encodeI_and, fieldOp, fieldS, fieldT, fieldImm, and_all_six]

/-- Format RI: op and the selector in bits 20:16 fixed. -/
theorem matches_ri {row : OpcodeRow} {op : BitVec 6} {t : Reg} (hm : row.mask = 0xfc1f0000#32)
    (hb : row.bits = encodeI op 0 t 0) {s : Reg} {imm : Half} : row.matches (encodeI op s t imm) = true := by
  simp [OpcodeRow.matches, hm, hb, encodeI_and, fieldOp, fieldS, fieldT, fieldImm, and_all_six, and_all_five]

/-- Format J: op fixed. -/
theorem matches_j {row : OpcodeRow} {op : BitVec 6} (hm : row.mask = 0xfc000000#32) (hb : row.bits = encodeJ op 0)
    {target : Target} : row.matches (encodeJ op target) = true := by
  simp [OpcodeRow.matches, hm, hb, encodeJ_and, fieldOp, fieldTarget, and_all_six]

/-! ## The family -/

theorem RowMatch.add (d : Reg) (s : Reg) (t : Reg) : RowMatch.Statement (.add d s t) :=
  matches_r3 rfl rfl

theorem RowMatch.addi (t : Reg) (s : Reg) (imm : Half) : RowMatch.Statement (.addi t s imm) :=
  matches_i rfl rfl

theorem RowMatch.addiu (t : Reg) (s : Reg) (imm : Half) : RowMatch.Statement (.addiu t s imm) :=
  matches_i rfl rfl

theorem RowMatch.addu (d : Reg) (s : Reg) (t : Reg) : RowMatch.Statement (.addu d s t) :=
  matches_r3 rfl rfl

theorem RowMatch.and (d : Reg) (s : Reg) (t : Reg) : RowMatch.Statement (.and d s t) :=
  matches_r3 rfl rfl

theorem RowMatch.andi (t : Reg) (s : Reg) (imm : Half) : RowMatch.Statement (.andi t s imm) :=
  matches_i rfl rfl

theorem RowMatch.beq (s : Reg) (t : Reg) (offset : Half) : RowMatch.Statement (.beq s t offset) :=
  matches_i rfl rfl

theorem RowMatch.bgez (s : Reg) (offset : Half) : RowMatch.Statement (.bgez s offset) :=
  matches_ri rfl rfl

theorem RowMatch.bgezal (s : Reg) (offset : Half) : RowMatch.Statement (.bgezal s offset) :=
  matches_ri rfl rfl

theorem RowMatch.bgtz (s : Reg) (offset : Half) : RowMatch.Statement (.bgtz s offset) :=
  matches_ri rfl rfl

theorem RowMatch.blez (s : Reg) (offset : Half) : RowMatch.Statement (.blez s offset) :=
  matches_ri rfl rfl

theorem RowMatch.bltz (s : Reg) (offset : Half) : RowMatch.Statement (.bltz s offset) :=
  matches_ri rfl rfl

theorem RowMatch.bltzal (s : Reg) (offset : Half) : RowMatch.Statement (.bltzal s offset) :=
  matches_ri rfl rfl

theorem RowMatch.bne (s : Reg) (t : Reg) (offset : Half) : RowMatch.Statement (.bne s t offset) :=
  matches_i rfl rfl

theorem RowMatch.div (s : Reg) (t : Reg) : RowMatch.Statement (.div s t) :=
  matches_r2 rfl rfl

theorem RowMatch.divu (s : Reg) (t : Reg) : RowMatch.Statement (.divu s t) :=
  matches_r2 rfl rfl

theorem RowMatch.j (target : Target) : RowMatch.Statement (.j target) :=
  matches_j rfl rfl

theorem RowMatch.jal (target : Target) : RowMatch.Statement (.jal target) :=
  matches_j rfl rfl

theorem RowMatch.jr (s : Reg) : RowMatch.Statement (.jr s) :=
  matches_rJr rfl rfl

theorem RowMatch.lb (t : Reg) (offset : Half) (s : Reg) : RowMatch.Statement (.lb t offset s) :=
  matches_i rfl rfl

theorem RowMatch.lui (t : Reg) (imm : Half) : RowMatch.Statement (.lui t imm) :=
  matches_i rfl rfl

theorem RowMatch.lw (t : Reg) (offset : Half) (s : Reg) : RowMatch.Statement (.lw t offset s) :=
  matches_i rfl rfl

theorem RowMatch.mfhi (d : Reg) : RowMatch.Statement (.mfhi d) :=
  matches_rMove rfl rfl

theorem RowMatch.mflo (d : Reg) : RowMatch.Statement (.mflo d) :=
  matches_rMove rfl rfl

theorem RowMatch.mult (s : Reg) (t : Reg) : RowMatch.Statement (.mult s t) :=
  matches_r2 rfl rfl

theorem RowMatch.multu (s : Reg) (t : Reg) : RowMatch.Statement (.multu s t) :=
  matches_r2 rfl rfl

theorem RowMatch.noop : RowMatch.Statement .noop := rfl

theorem RowMatch.or (d : Reg) (s : Reg) (t : Reg) : RowMatch.Statement (.or d s t) :=
  matches_r3 rfl rfl

theorem RowMatch.ori (t : Reg) (s : Reg) (imm : Half) : RowMatch.Statement (.ori t s imm) :=
  matches_i rfl rfl

theorem RowMatch.sb (t : Reg) (offset : Half) (s : Reg) : RowMatch.Statement (.sb t offset s) :=
  matches_i rfl rfl

theorem RowMatch.sll (d : Reg) (t : Reg) (h : Shamt) : RowMatch.Statement (.sll d t h) :=
  matches_rFree rfl rfl

theorem RowMatch.sllv (d : Reg) (t : Reg) (s : Reg) : RowMatch.Statement (.sllv d t s) :=
  matches_rFree rfl rfl

theorem RowMatch.slt (d : Reg) (s : Reg) (t : Reg) : RowMatch.Statement (.slt d s t) :=
  matches_r3 rfl rfl

theorem RowMatch.slti (t : Reg) (s : Reg) (imm : Half) : RowMatch.Statement (.slti t s imm) :=
  matches_i rfl rfl

theorem RowMatch.sltiu (t : Reg) (s : Reg) (imm : Half) : RowMatch.Statement (.sltiu t s imm) :=
  matches_i rfl rfl

theorem RowMatch.sltu (d : Reg) (s : Reg) (t : Reg) : RowMatch.Statement (.sltu d s t) :=
  matches_r3 rfl rfl

theorem RowMatch.sra (d : Reg) (t : Reg) (h : Shamt) : RowMatch.Statement (.sra d t h) :=
  matches_rFree rfl rfl

theorem RowMatch.srl (d : Reg) (t : Reg) (h : Shamt) : RowMatch.Statement (.srl d t h) :=
  matches_rFree rfl rfl

theorem RowMatch.srlv (d : Reg) (t : Reg) (s : Reg) : RowMatch.Statement (.srlv d t s) :=
  matches_r3 rfl rfl

theorem RowMatch.sub (d : Reg) (s : Reg) (t : Reg) : RowMatch.Statement (.sub d s t) :=
  matches_r3 rfl rfl

theorem RowMatch.subu (d : Reg) (s : Reg) (t : Reg) : RowMatch.Statement (.subu d s t) :=
  matches_r3 rfl rfl

theorem RowMatch.sw (t : Reg) (offset : Half) (s : Reg) : RowMatch.Statement (.sw t offset s) :=
  matches_i rfl rfl

theorem RowMatch.syscall : RowMatch.Statement .syscall :=
  matches_rFree rfl rfl

theorem RowMatch.xor (d : Reg) (s : Reg) (t : Reg) : RowMatch.Statement (.xor d s t) :=
  matches_rFree rfl rfl

theorem RowMatch.xori (t : Reg) (s : Reg) (imm : Half) : RowMatch.Statement (.xori t s imm) :=
  matches_i rfl rfl

end Sys2Proof.Laws
end

