-- ==== Sys2Proof/Tests/Slice0.lean ====
section
/-! SUPPORT. Tests: the checks of WellFormed, every constructor's word written out bit by bit, at most two steps per
instruction, and a witness for the hypotheses of every obligation that has some. Expected results of steps are the rows
of spec/95_test_vectors.md; words are written from the Encoding lines of spec/30_encoding.md R87. -/

namespace Sys2Proof.Tests

open Sys2Proof.Machine

/-! ## WellFormed smoke: one ill-formed term for each check -/

theorem test_noop_is_no_decoded_instruction : Instr.noop.wellFormed = false := by decide

theorem test_register_32_refused : AsmLine.wellFormed ⟨.jr, [32]⟩ = false := by decide

theorem test_register_below_0_refused : AsmLine.wellFormed ⟨.jr, [-1]⟩ = false := by decide

theorem test_signed_immediate_32768_refused : AsmLine.wellFormed ⟨.addi, [1, 2, 32768]⟩ = false := by decide

theorem test_signed_immediate_below_range_refused : AsmLine.wellFormed ⟨.addi, [1, 2, -32769]⟩ = false := by decide

theorem test_unsigned_immediate_65536_refused : AsmLine.wellFormed ⟨.ori, [1, 2, 65536]⟩ = false := by decide

theorem test_unsigned_immediate_below_0_refused : AsmLine.wellFormed ⟨.ori, [1, 2, -1]⟩ = false := by decide

theorem test_shift_amount_32_refused : AsmLine.wellFormed ⟨.sll, [1, 2, 32]⟩ = false := by decide

theorem test_target_2_to_26_refused : AsmLine.wellFormed ⟨.j, [67108864]⟩ = false := by decide

theorem test_operand_count_refused :
    AsmLine.wellFormed ⟨.add, [1, 2]⟩ = false ∧ AsmLine.wellFormed ⟨.syscall, [0]⟩ = false ∧
    assemble ⟨.add, [1, 2]⟩ = none := by decide

theorem test_range_ends_accepted :
    assemble ⟨.addi, [31, 0, -32768]⟩ = some (.addi 31 0 0x8000) ∧
    assemble ⟨.ori, [0, 31, 65535]⟩ = some (.ori 0 31 0xFFFF) ∧
    assemble ⟨.sll, [1, 2, 31]⟩ = some (.sll 1 2 31) ∧
    assemble ⟨.j, [67108863]⟩ = some (.j 0x3FFFFFF) := by decide

/-! ## Decoding: every constructor's word, written from its Encoding line (R87) -/

theorem test_decode_add : decode 0b00000000001000100001100000100000#32 = .ok (.add 3 1 2) := by decide
theorem test_decode_addi : decode 0b00100000001000101111111111111111#32 = .ok (.addi 2 1 0xFFFF) := by decide
theorem test_decode_addiu : decode 0b00100100001000101000000000000000#32 = .ok (.addiu 2 1 0x8000) := by decide
theorem test_decode_addu : decode 0b00000000001000100001100000100001#32 = .ok (.addu 3 1 2) := by decide
theorem test_decode_and : decode 0b00000000001000100001100000100100#32 = .ok (.and 3 1 2) := by decide
theorem test_decode_andi : decode 0b00110000001000101111111100000000#32 = .ok (.andi 2 1 0xFF00) := by decide
theorem test_decode_beq : decode 0b00010000001000100000000000000011#32 = .ok (.beq 1 2 3) := by decide
theorem test_decode_bgez : decode 0b00000100001000010000000000000100#32 = .ok (.bgez 1 4) := by decide
theorem test_decode_bgezal : decode 0b00000100001100010000000000000100#32 = .ok (.bgezal 1 4) := by decide
theorem test_decode_bgtz : decode 0b00011100001000000000000000000100#32 = .ok (.bgtz 1 4) := by decide
theorem test_decode_blez : decode 0b00011000001000000000000000000100#32 = .ok (.blez 1 4) := by decide
theorem test_decode_bltz : decode 0b00000100001000001111111111111110#32 = .ok (.bltz 1 0xFFFE) := by decide
theorem test_decode_bltzal : decode 0b00000100001100000000000000000100#32 = .ok (.bltzal 1 4) := by decide
theorem test_decode_bne : decode 0b00010100001000101111111111111101#32 = .ok (.bne 1 2 0xFFFD) := by decide
theorem test_decode_div : decode 0b00000000001000100000000000011010#32 = .ok (.div 1 2) := by decide
theorem test_decode_divu : decode 0b00000000001000100000000000011011#32 = .ok (.divu 1 2) := by decide
theorem test_decode_j : decode 0b00001011111111111111111111111110#32 = .ok (.j 0x3FFFFFE) := by decide
theorem test_decode_jal : decode 0b00001100000100000000000001000000#32 = .ok (.jal 0x100040) := by decide
theorem test_decode_jr : decode 0b00000011111000000000000000001000#32 = .ok (.jr 31) := by decide
theorem test_decode_lb : decode 0b10000000001000101111111111111111#32 = .ok (.lb 2 0xFFFF 1) := by decide
theorem test_decode_lui : decode 0b00111100000000100001001000110100#32 = .ok (.lui 2 0x1234) := by decide
theorem test_decode_lw : decode 0b10001100001000101111111111111100#32 = .ok (.lw 2 0xFFFC 1) := by decide
theorem test_decode_mfhi : decode 0b00000000000000000001100000010000#32 = .ok (.mfhi 3) := by decide
theorem test_decode_mflo : decode 0b00000000000000000001100000010010#32 = .ok (.mflo 3) := by decide
theorem test_decode_mult : decode 0b00000000001000100000000000011000#32 = .ok (.mult 1 2) := by decide
theorem test_decode_multu : decode 0b00000000001000100000000000011001#32 = .ok (.multu 1 2) := by decide
theorem test_decode_noop : decode 0b00000000000000000000000000000000#32 = .ok (.sll 0 0 0) := by decide
theorem test_decode_or : decode 0b00000000001000100001100000100101#32 = .ok (.or 3 1 2) := by decide
theorem test_decode_ori : decode 0b00110100001000101000000000000001#32 = .ok (.ori 2 1 0x8001) := by decide
theorem test_decode_sb : decode 0b10100000001000100000000000000001#32 = .ok (.sb 2 1 1) := by decide
theorem test_decode_sll : decode 0b00000000000000100001100100000000#32 = .ok (.sll 3 2 4) := by decide
theorem test_decode_sllv : decode 0b00000000001000100001100000000100#32 = .ok (.sllv 3 2 1) := by decide
theorem test_decode_slt : decode 0b00000000001000100001100000101010#32 = .ok (.slt 3 1 2) := by decide
theorem test_decode_slti : decode 0b00101000001000100000000000001010#32 = .ok (.slti 2 1 10) := by decide
theorem test_decode_sltiu : decode 0b00101100001000100000000000001010#32 = .ok (.sltiu 2 1 10) := by decide
theorem test_decode_sltu : decode 0b00000000001000100001100000101011#32 = .ok (.sltu 3 1 2) := by decide
theorem test_decode_sra : decode 0b00000000000000100001100100000011#32 = .ok (.sra 3 2 4) := by decide
theorem test_decode_srl : decode 0b00000000000000100001100100000010#32 = .ok (.srl 3 2 4) := by decide
theorem test_decode_srlv : decode 0b00000000001000100001100000000110#32 = .ok (.srlv 3 2 1) := by decide
theorem test_decode_sub : decode 0b00000000001000100001100000100010#32 = .ok (.sub 3 1 2) := by decide
theorem test_decode_subu : decode 0b00000000001000100001100000100011#32 = .ok (.subu 3 1 2) := by decide
theorem test_decode_sw : decode 0b10101100001000101111111111111100#32 = .ok (.sw 2 0xFFFC 1) := by decide
theorem test_decode_syscall : decode 0b00000000000000000000000000001100#32 = .ok .syscall := by decide
theorem test_decode_xor : decode 0b00000000001000100001100000100110#32 = .ok (.xor 3 1 2) := by decide
theorem test_decode_xori : decode 0b00111000001000101111111111111111#32 = .ok (.xori 2 1 0xFFFF) := by decide

/-- Rows of "Decode vectors" with don't-care bits set (R79). -/
theorem test_decode_dont_care :
    decode 0x03E00000#32 = .ok (.sll 0 0 0) ∧ decode 0x03E21903#32 = .ok (.sra 3 2 4) ∧
    decode 0x002217E6#32 = .ok (.xor 2 1 2) ∧ decode 0x002217C4#32 = .ok (.sllv 2 2 1) := by decide

/-- Rows of "Decode vectors" that are reserved (R88). -/
theorem test_decode_reserved :
    decode 0x002217C6#32 = .error .fixedBits ∧ decode 0x00220007#32 = .error .reservedFunct ∧
    decode 0x1C210004#32 = .error .fixedBits ∧ decode 0x84220000#32 = .error .reservedOp ∧
    decode 0x40000000#32 = .error .reservedOp ∧ decode 0xFFFFFFFF#32 = .error .reservedOp ∧
    decode 0x03E00408#32 = .error .fixedBits ∧ decode 0x00201010#32 = .error .fixedBits ∧
    decode 0x0022011A#32 = .error .fixedBits := by decide

/-- Fewer than four bytes are no instruction, and what follows one is kept (R70). -/
theorem test_decode_bytes :
    decodeBytes .big [0x00, 0x22, 0x18] = .error .truncated ∧
    decodeBytes .big [0x00, 0x22, 0x18, 0x20, 0x7F] = .ok (.add 3 1 2, [0x7F]) ∧
    decodeBytes .little [0x20, 0x18, 0x22, 0x00] = .ok (.add 3 1 2, []) := by decide

/-! ## Steps: rows of "Derived vectors for single instructions" -/

/-- The word `w` at the pair (0x1000, 0x1004), some registers set. -/
def before (w : Nat) (rs : List (Reg × Word)) : State := (State.reset.setRegs rs).withFetchWord 32 w

/-- The bytes 11 22 83 44 at 0x2000. -/
def withBytes (s : State) : State := s.putWord 0x2000 0x11228344

/-- The same state under other parameters. -/
def under (c : Config) (s : State) : State := { s with cfg := c }

def afterReg (r : Reg) : Res State → Option Word
  | .next t => some (t.reg r)
  | _ => none

def afterPair : Res State → Option (Word × Word)
  | .next t => some (t.pc, t.npc)
  | _ => none

def afterHiLo : Res State → Option (Word × Word)
  | .next t => some (t.hi, t.lo)
  | _ => none

def afterBytes : Res State → Option (Option Byte × Option Byte × Option Byte × Option Byte)
  | .next t => some (t.byteAt 0x2000, t.byteAt 0x2001, t.byteAt 0x2002, t.byteAt 0x2003)
  | _ => none

def faultOf : Res State → Option Fault
  | .fault f => some f
  | _ => none

theorem test_add_negative_and_positive :
    afterReg 3 (step (before 0x00221820 [(1, 0xFFFFFFFF), (2, 1)])) = some 0 := by decide
theorem test_add_traps_with_destination_zero :
    faultOf (step (before 0x00220020 [(1, 0x7FFFFFFF), (2, 1)])) = some (.overflow 0x1000) := by decide
theorem test_addi_reaches_the_largest :
    afterReg 2 (step (before 0x20227FFF [(1, 0x7FFF8000)])) = some 0x7FFFFFFF := by decide
theorem test_addi_traps_downward :
    faultOf (step (before 0x2022FFFF [(1, 0x80000000)])) = some (.overflow 0x1000) := by decide
theorem test_addiu_wraps : afterReg 2 (step (before 0x2422FFFF [(1, 0x80000000)])) = some 0x7FFFFFFF := by decide
theorem test_addiu_source_is_destination :
    afterReg 29 (step (before 0x27BDFFF8 [(29, 0x2FF8)])) = some 0x2FF0 := by decide
theorem test_addu_wraps :
    afterReg 3 (step (before 0x00221821 [(1, 0xFFFFFFFF), (2, 0xFFFFFFFF)])) = some 0xFFFFFFFE := by decide
theorem test_sub_reaches_the_largest :
    afterReg 3 (step (before 0x00221822 [(1, 0xFFFFFFFF), (2, 0x80000000)])) = some 0x7FFFFFFF := by decide
theorem test_sub_traps :
    faultOf (step (before 0x00221822 [(1, 0), (2, 0x80000000)])) = some (.overflow 0x1000) := by decide
theorem test_subu_negates : afterReg 3 (step (before 0x00011823 [(1, 1)])) = some 0xFFFFFFFF := by decide

theorem test_and : afterReg 3 (step (before 0x00221824 [(1, 0xFF00FF00), (2, 0x0FF00FF0)])) = some 0x0F000F00 := by
  decide
theorem test_or : afterReg 3 (step (before 0x00221825 [(1, 0xFF00FF00), (2, 0x0FF00FF0)])) = some 0xFFF0FFF0 := by
  decide
theorem test_xor : afterReg 3 (step (before 0x00221826 [(1, 0xFF00FF00), (2, 0x0FF00FF0)])) = some 0xF0F0F0F0 := by
  decide
theorem test_andi_zero_extends : afterReg 2 (step (before 0x3022FF00 [(1, 0xFFFFFFFF)])) = some 0x0000FF00 := by decide
theorem test_andi_sign_setting :
    afterReg 2 (step (under { Config.initial with logicalImmExt := .sign } (before 0x3022FF00 [(1, 0xFFFFFFFF)]))) =
      some 0xFFFFFF00 := by decide
theorem test_ori_zero_extends : afterReg 2 (step (before 0x34228001 [(1, 0x12340000)])) = some 0x12348001 := by decide
theorem test_xori_zero_extends : afterReg 2 (step (before 0x3822FFFF [(1, 0x12345678)])) = some 0x1234A987 := by decide
theorem test_lui : afterReg 2 (step (before 0x3C02FFFF [(2, 0x55)])) = some 0xFFFF0000 := by decide

theorem test_noop : afterPair (step (before 0 [])) = some (0x1004, 0x1008) := by decide
theorem test_sll : afterReg 3 (step (before 0x00021FC0 [(2, 3)])) = some 0x80000000 := by decide
theorem test_srl : afterReg 3 (step (before 0x00021902 [(2, 0x87654321)])) = some 0x08765432 := by decide
theorem test_sra : afterReg 3 (step (before 0x00021903 [(2, 0x87654321)])) = some 0xF8765432 := by decide
theorem test_sllv_low_five_bits :
    afterReg 3 (step (before 0x00221804 [(1, 0x24), (2, 0x12345678)])) = some 0x23456780 := by decide
theorem test_sllv_full_setting :
    afterReg 3 (step (under { Config.initial with varShiftAmount := .full }
      (before 0x00221804 [(1, 0x24), (2, 0x12345678)]))) = some 0 := by decide
theorem test_srlv : afterReg 3 (step (before 0x00221806 [(1, 8), (2, 0x87654321)])) = some 0x00876543 := by decide
theorem test_srlv_low_five_bits :
    afterReg 3 (step (before 0x00221806 [(1, 0xFFFFFFE0), (2, 0x87654321)])) = some 0x87654321 := by decide

theorem test_slt : afterReg 3 (step (before 0x0022182A [(1, 0x80000000), (2, 0x7FFFFFFF)])) = some 1 := by decide
theorem test_sltu : afterReg 3 (step (before 0x0022182B [(1, 0xFFFFFFFF), (2, 1), (3, 7)])) = some 0 := by decide
theorem test_slti : afterReg 2 (step (before 0x2822FFFF [(1, 0xFFFFFFFE)])) = some 1 := by decide
theorem test_slti_false : afterReg 2 (step (before 0x2822FFFF [(1, 0), (2, 7)])) = some 0 := by decide
theorem test_sltiu : afterReg 2 (step (before 0x2C22FFFF [(1, 5)])) = some 1 := by decide
theorem test_sltiu_false : afterReg 2 (step (before 0x2C22000A [(1, 0xFFFFFFFF), (2, 7)])) = some 0 := by decide

theorem test_mult :
    afterHiLo (step (before 0x00220018 [(1, 0xFFFFFFFF), (2, 2)])) = some (0xFFFFFFFF, 0xFFFFFFFE) := by decide
theorem test_mult_of_smallest :
    afterHiLo (step (before 0x00220018 [(1, 0x80000000), (2, 0x80000000)])) = some (0x40000000, 0) := by decide
theorem test_multu :
    afterHiLo (step (before 0x00220019 [(1, 0xFFFFFFFF), (2, 0xFFFFFFFF)])) = some (0xFFFFFFFE, 1) := by decide
theorem test_div_negative_dividend :
    afterHiLo (step (before 0x0022001A [(1, 0xFFFFFFF9), (2, 2)])) = some (0xFFFFFFFF, 0xFFFFFFFD) := by decide
theorem test_div_negative_divisor :
    afterHiLo (step (before 0x0022001A [(1, 7), (2, 0xFFFFFFFE)])) = some (1, 0xFFFFFFFD) := by decide
theorem test_divu :
    afterHiLo (step (before 0x0022001B [(1, 0xFFFFFFF9), (2, 2)])) = some (1, 0x7FFFFFFC) := by decide
/-- HI and LO are ANY; what the spec fixes is that nothing traps and the pair advances. -/
theorem test_divu_by_zero_goes_on : afterPair (step (before 0x0022001B [(1, 7)])) = some (0x1004, 0x1008) := by decide
theorem test_mfhi :
    afterReg 3 (step ((before 0x00001810 []).setHiLo 0xCAFEBABE 0x12345678)) = some 0xCAFEBABE := by decide
theorem test_mflo :
    afterReg 3 (step ((before 0x00001812 []).setHiLo 0xCAFEBABE 0x12345678)) = some 0x12345678 := by decide

theorem test_lw : afterReg 2 (step (withBytes (before 0x8C22FFFC [(1, 0x2004)]))) = some 0x11228344 := by decide
theorem test_lw_misaligned :
    faultOf (step (withBytes (before 0x8C220002 [(1, 0x2000)]))) = some (.addressError .load 0x2002 0x1000) := by decide
theorem test_lb_sign_extends :
    afterReg 2 (step (withBytes (before 0x80220002 [(1, 0x2000)]))) = some 0xFFFFFF83 := by decide
theorem test_lb_odd_address : afterReg 2 (step (withBytes (before 0x8022FFFF [(1, 0x2001)]))) = some 0x11 := by decide
theorem test_sw :
    afterBytes (step (withBytes (before 0xAC220000 [(1, 0x2000), (2, 0xAABBCCDD)]))) =
      some (some 0xAA, some 0xBB, some 0xCC, some 0xDD) := by decide
/-- BYTE_ORDER = little: the exec of the same row. -/
theorem test_sw_little :
    afterBytes (exec (.sw 2 0 1) (under { Config.initial with byteOrder := .little }
      (before 0xAC220000 [(1, 0x2000), (2, 0xAABBCCDD)]))) = some (some 0xDD, some 0xCC, some 0xBB, some 0xAA) := by
  decide
theorem test_sb :
    afterBytes (step (withBytes (before 0xA0220001 [(1, 0x2000), (2, 0xAABBCCDD)]))) =
      some (some 0x11, some 0xDD, some 0x83, some 0x44) := by decide

theorem test_beq_taken :
    afterPair (step (before 0x10228000 [])) = some (0x1004, 0xFFFE1004) := by decide
theorem test_beq_not_taken : afterPair (step (before 0x10220003 [(1, 9), (2, 8)])) = some (0x1004, 0x1008) := by decide
theorem test_bne_taken : afterPair (step (before 0x1422FFFD [(1, 1)])) = some (0x1004, 0xFF8) := by decide
theorem test_bne_not_taken : afterPair (step (before 0x1422FFFD [])) = some (0x1004, 0x1008) := by decide
theorem test_bgez_zero : afterPair (step (before 0x04210004 [])) = some (0x1004, 0x1014) := by decide
theorem test_bgez_negative : afterPair (step (before 0x04210004 [(1, 0x80000000)])) = some (0x1004, 0x1008) := by decide
theorem test_bgtz_zero : afterPair (step (before 0x1C200004 [])) = some (0x1004, 0x1008) := by decide
theorem test_bgtz_one : afterPair (step (before 0x1C200004 [(1, 1)])) = some (0x1004, 0x1014) := by decide
theorem test_blez_zero : afterPair (step (before 0x18200004 [])) = some (0x1004, 0x1014) := by decide
theorem test_blez_one : afterPair (step (before 0x18200004 [(1, 1)])) = some (0x1004, 0x1008) := by decide
theorem test_bltz_negative : afterPair (step (before 0x0420FFFE [(1, 0xFFFFFFFF)])) = some (0x1004, 0xFFC) := by decide
theorem test_bltz_zero : afterPair (step (before 0x0420FFFE [])) = some (0x1004, 0x1008) := by decide
theorem test_bgezal_reads_before_it_links :
    afterReg 31 (step (before 0x07F10004 [(31, 0x10)])) = some 0x1008 ∧
    afterPair (step (before 0x07F10004 [(31, 0x10)])) = some (0x1004, 0x1014) := by decide
theorem test_bgezal_not_taken :
    afterReg 31 (step (before 0x04310004 [(1, 0xFFFFFFFB), (31, 7)])) = some 7 := by decide
theorem test_bltzal_taken :
    afterReg 31 (step (before 0x04300004 [(1, 0xFFFFFFFB)])) = some 0x1008 ∧
    afterPair (step (before 0x04300004 [(1, 0xFFFFFFFB)])) = some (0x1004, 0x1014) := by decide
theorem test_bltzal_not_taken : afterReg 31 (step (before 0x04300004 [(31, 7)])) = some 7 := by decide
theorem test_j : afterPair (step (before 0x08000100 [])) = some (0x1004, 0x400) := by decide
theorem test_j_region_of_the_delay_slot :
    afterPair (exec (.j 0x100) { State.reset with pc := 0x2FFFFFFC, npc := 0x30000000 }) =
      some (0x30000000, 0x30000400) := by decide
theorem test_jal :
    afterReg 31 (step (before 0x0C100040 [])) = some 0x1008 ∧
    afterPair (step (before 0x0C100040 [])) = some (0x1004, 0x400100) := by decide
theorem test_jr_misaligned_goes_on :
    afterPair (step (before 0x00200008 [(1, 0x1002)])) = some (0x1004, 0x1002) := by decide

theorem test_syscall_halts : faultOf (step (before 0xC [])) = some (.syscall 0x1000 []) := by decide
/-- An environment that always resumes with one change. -/
def answering (c : EnvChange) : State := { State.reset with env := .script [] (.resume c) }

/-- Two registers named, one of them twice, `$0`, and two bytes; `$3` and 0x2002 are not named. -/
def twoOfEach : EnvChange := ⟨[(2, 9), (4, 1), (2, 8), (0, 5)], some 1, none, [(0x2000, 7), (0x2001, 6)]⟩

/-- R180: the environment's changes (the last value of `$2`, `$0` discarded), then the instruction after. -/
theorem test_syscall_resumes :
    afterReg 2 (exec .syscall (answering twoOfEach)) = some 8 ∧
    afterReg 4 (exec .syscall (answering twoOfEach)) = some 1 ∧
    afterReg 0 (exec .syscall (answering twoOfEach)) = some 0 ∧
    afterBytes (exec .syscall (answering twoOfEach)) = some (some 7, some 6, none, none) ∧
    afterPair (exec .syscall (answering twoOfEach)) = some (0x1004, 0x1008) := by decide

/-- Reset lists no memory, so the fetch at `RESET_PC` finds no value (R50). -/
theorem test_reset_fetch : faultOf (step State.reset) = some (.unwrittenByte .fetch 0x1000 0x1000) := by decide

/-- R194: a word that is no instruction. -/
theorem test_reserved_word :
    faultOf (step (before 0x00221860 [])) = some (.reservedInstruction 0x00221860 0x1000) := by decide

/-- R228: Halt is the one successful end. -/
theorem test_run_ends :
    (before 0xC []).runEnd = some .success ∧ (before 0xC []).stepSafe ∧
    (before 0x00221860 []).runEnd = some .trapped ∧ State.reset.runEnd = some .modelFault := by decide

/-! ## Witnesses: for every obligation with hypotheses, states and operands that meet them, clause by clause -/

/-- Registers `$1` and `$2` given, nothing in memory. -/
def regs12 (a b : Word) : State := State.reset.setRegs [(1, a), (2, b)]

/-- A state in a delay slot: `npc` is not `pc + 4`. -/
def inSlot (c : Config) : State := { under c State.reset with npc := 0x2000 }

/-- The initial parameters with memory only from 0x1000 to 0x1003. -/
def oneWordMap : Config := { Config.initial with memMap := [⟨0x1000, 4⟩] }

/-- Every parameter at its refusing value. -/
def refusing : Config :=
  { Config.initial with logicalImmExt := .refuse, varShiftAmount := .refuse, divUndefined := .refuse,
                        delaySlotCti := .refuse, textStores := .refuse }

/-- The initial parameters, a branch or jump in a delay slot followed as the rules are written. -/
def following : Config := { Config.initial with delaySlotCti := .followRules }

/-- The undecided readings that are no refusals. -/
def drawing : Config :=
  { following with logicalImmExt := .sign, lbExt := .draw, multHi := .any, varShiftAmount := .full,
                   linkWhenNotTaken := .draw }

/-- The readings of the source's text that the decided settings are not. -/
def otherwise : Config :=
  { Config.initial with lbExt := .zero, multHi := .unchanged, linkWhenNotTaken := .yes }

theorem witness_DecodeOfEncodeIsTheInstruction :
    (Instr.lui 31 0xFFFF).wellFormed = true ∧ (Instr.sll 0 0 31).wellFormed = true := by decide

theorem witness_DecodingIsMaskAndMatch : Mnemonic.sll ≠ .noop ∧ Mnemonic.xori ≠ .noop := by decide

theorem witness_OpcodeRowsAreDisjoint :
    Mnemonic.sll ≠ .noop ∧ 0x00000000#32 &&& (opcodeRow .sll).mask = (opcodeRow .sll).bits := by decide

theorem witness_AssemblerKeepsOperandsAndRefusesTheRest :
    assemble ⟨.addi, [2, 1, -32768]⟩ = some (.addi 2 1 0x8000) ∧ assemble ⟨.noop, []⟩ = some .noop := by decide

theorem witness_StepRunsTheDecodedInstruction :
    isAligned (before 0x00221820 []).pc = true ∧
    loadWord (before 0x00221820 []) .fetch (before 0x00221820 []).pc = .next 0x00221820 ∧
    decode 0x00221820 = .ok (.add 3 1 2) ∧ (Instr.add 3 1 2).wellFormed = true :=
  ⟨by decide, rfl, by decide, by decide⟩

theorem witness_FetchStopsInPriorityOrder_misaligned :
    isAligned { State.reset with pc := 1 }.pc = false ∧ isAligned { State.reset with pc := 0xFFFFFFFF }.pc = false := by
  decide

theorem witness_FetchStopsInPriorityOrder_unmapped :
    isAligned (under { Config.initial with memMap := [⟨0x1000, 3⟩] } State.reset).pc = true ∧
    (under { Config.initial with memMap := [⟨0x1000, 3⟩] } State.reset).mappedWord 0x1000 = false := by decide

theorem witness_FetchStopsInPriorityOrder_unwritten :
    (under oneWordMap State.reset).mappedWord 0x1000 = true ∧
    { State.reset with mem := [(0x1000, 0), (0x1001, 0), (0x1002, 0)] }.byteAt (0x1000 + 3) = none := by decide

theorem witness_FetchStopsInPriorityOrder_reserved :
    isAligned (before 0xFFFFFFFF []).pc = true ∧ (before 0xFFFFFFFF []).mappedWord 0x1000 = true ∧
    (before 0xFFFFFFFF []).byteAt 0x1000 = some 0xFF ∧ (before 0xFFFFFFFF []).byteAt (0x1000 + 1) = some 0xFF ∧
    (before 0xFFFFFFFF []).byteAt (0x1000 + 2) = some 0xFF ∧ (before 0xFFFFFFFF []).byteAt (0x1000 + 3) = some 0xFF ∧
    ∀ m : Mnemonic, m ≠ .noop →
      wordOfBytes .big 0xFF 0xFF 0xFF 0xFF &&& (opcodeRow m).mask ≠ (opcodeRow m).bits :=
  ⟨by decide, by decide, by decide, by decide, by decide, by decide, fun m _ => by cases m <;> decide⟩

theorem witness_StepKeepsTheMemoryInvariant :
    (before 0xA0220001 []).Inv ∧ ∃ t, step (before 0xA0220001 []) = .next t :=
  ⟨by decide, _, rfl⟩

/-- A launch that supplies a register value, HI, a program word and an environment, and meets R220's demands at the
ends: `RESET_PC` and the whole of `TEXT` are one word, the last of `MEM_MAP`. -/
def smallLaunch : Launch where
  cfg := Config.decided .little 0x2000 [⟨0x1000, 0x1004⟩] [⟨0x2000, 4⟩]
  regs := (Vector.replicate 31 0).setIfInBounds 28 0x1F00
  hi := 7
  lo := 0
  mem := [(0x1000, 1), (0x2000, 0x0C), (0x2001, 0), (0x2002, 0), (0x2003, 0)]
  env := .ofState 0

theorem witness_LaunchStateIsAsTheRulesSay : smallLaunch.Valid ∧ (29 : Reg) ≠ 0 := by
  refine ⟨⟨by decide, by decide, fun a _ h => ?_, by decide, by decide⟩, by decide⟩
  simp only [smallLaunch, Config.decided, inRegions, List.any_cons, List.any_nil, Bool.or_false,
    decide_eq_true_eq] at h ⊢
  omega

/-- R221 (4): a register and HI hold what the launch gives them. -/
theorem test_launch_supplies_registers :
    (State.launch smallLaunch).reg 29 = 0x1F00 ∧ (State.launch smallLaunch).reg 28 = 0 ∧
    (State.launch smallLaunch).hi = 7 ∧ (State.launch smallLaunch).npc = 0x2004 := by decide

/-! Each demand of R220 refuses a launch. -/

theorem test_launch_outside_text_is_invalid :
    ¬ Launch.Valid { smallLaunch with cfg := { smallLaunch.cfg with resetPc := 0x1000 } } :=
  fun h => absurd h.2.1 (by decide)

theorem test_launch_misaligned_is_invalid :
    ¬ Launch.Valid { smallLaunch with cfg := { smallLaunch.cfg with resetPc := 0x2002 } } :=
  fun h => absurd h.1 (by decide)

theorem test_launch_text_outside_map_is_invalid :
    ¬ Launch.Valid { smallLaunch with cfg := { smallLaunch.cfg with text := [⟨0x2000, 5⟩] } } :=
  fun h => absurd (h.2.2.1 0x2004 (by decide) (by decide)) (by decide)

theorem test_launch_memory_outside_map_is_invalid : ¬ Launch.Valid { smallLaunch with mem := [(0x2004, 0)] } :=
  fun h => absurd (h.2.2.2.2 (0x2004, 0) (by simp)) (by decide)

theorem witness_ResetMeetsTheMemoryInvariant :
    Memory.WF { Launch.bare Config.initial with mem := [(0, 1), (4294967295, 2)] }.mem ∧
    ∀ x ∈ ([(0, 1), (4294967295, 2)] : Memory), inRegions Config.initial.memMap x.1 = true := by decide

theorem witness_StepKeepsParametersAndInputs :
    (∃ t, exec (.div 1 2) (regs12 7 0) = .next t) ∧ (∃ t, step (before 0x0022001A []) = .next t) ∧
    ∃ t, exec .syscall (answering ⟨[], none, none, []⟩) = .next t :=
  ⟨⟨_, rfl⟩, ⟨_, rfl⟩, _, rfl⟩

theorem witness_OnlyJumpRegisterLosesAlignment :
    (∀ a, Instr.beq 1 2 0x8000 ≠ .jr a) ∧ (regs12 0 0).aligned ∧ ∃ t, exec (.beq 1 2 0x8000) (regs12 0 0) = .next t :=
  ⟨fun _ => by simp, by decide, _, rfl⟩

theorem witness_EveryInstructionAdvancesThePairAsTabled :
    (∃ t, exec (.bne 1 2 0x8000) (regs12 0 1) = .next t) ∧ (∃ t, exec (.jr 1) (regs12 3 0) = .next t) ∧
    ∃ t, exec (.j 0x3FFFFFF) (regs12 0 0) = .next t :=
  ⟨⟨_, rfl⟩, ⟨_, rfl⟩, _, rfl⟩

theorem witness_OnlyTheDestinationRegisterChanges :
    (∃ t, exec (.addu 31 1 2) (regs12 5 7) = .next t) ∧ Instr.addu 31 1 2 ≠ .syscall ∧
    destination (.addu 31 1 2) ≠ some 30 :=
  ⟨⟨_, rfl⟩, by decide, by decide⟩

theorem witness_HiAndLoChangeOnlyInMultiplyAndDivide :
    (∃ t, exec (.mfhi 3) (regs12 5 7) = .next t) ∧ Instr.mfhi 3 ≠ .syscall ∧
    ∀ a b, Instr.mfhi 3 ≠ .mult a b ∧ Instr.mfhi 3 ≠ .multu a b ∧ Instr.mfhi 3 ≠ .div a b ∧ Instr.mfhi 3 ≠ .divu a b :=
  ⟨⟨_, rfl⟩, by decide, fun _ _ => by simp⟩

theorem witness_MemoryChangesOnlyInStores :
    (∃ t, exec (.lw 2 0 1) (withBytes (regs12 0x2000 0)) = .next t) ∧ Instr.lw 2 0 1 ≠ .syscall ∧
    ∀ a o b, Instr.lw 2 0 1 ≠ .sb a o b ∧ Instr.lw 2 0 1 ≠ .sw a o b :=
  ⟨⟨_, rfl⟩, by decide, fun _ _ _ => by simp⟩

theorem witness_InstructionsRaiseOnlyTheirTabledFaults :
    exec (.sub 3 1 2) (regs12 0 0x80000000) = .fault (.overflow 0x1000) ∧
    exec (.lb 2 0 1) (regs12 0xFFFFFFFF 0) = .fault (.unwrittenByte .load 0xFFFFFFFF 0x1000) ∧
    exec (.sw 2 0 1) (regs12 3 0) = .fault (.addressError .store 3 0x1000) :=
  ⟨rfl, rfl, rfl⟩

theorem witness_NothingIsRefusedWithoutARefusingSetting :
    refusesNothing (inSlot following).cfg ∧ refusesNothing (under drawing (regs12 0 0)).cfg ∧
    refusesOnlyInDelaySlots (inSlot Config.initial).cfg ∧
    exec (.j 1) (inSlot Config.initial) = .refused (.controlTransferInDelaySlot 0x1000) :=
  ⟨by decide, by decide, by decide, rfl⟩

/-- A step from reset's parameters that is refused: BEQ `0x10000001` in a delay slot. -/
theorem witness_NothingIsRefusedWithoutARefusingSetting_step :
    refusesOnlyInDelaySlots ((inSlot Config.initial).withFetchWord 32 0x10000001).cfg ∧
    step ((inSlot Config.initial).withFetchWord 32 0x10000001) =
      .refused (.controlTransferInDelaySlot 0x1000) :=
  ⟨by decide, rfl⟩

theorem witness_UndoubtfulInstructionsDoNotDependOnTheSettings :
    samePlatform (regs12 0 31).cfg refusing ∧ doubtful (regs12 0 31) (.sllv 3 1 2) = false ∧
    doubtful (regs12 0 31) (.andi 3 1 0x7FFF) = false ∧ doubtful (regs12 0 31) (.bgezal 1 4) = false ∧
    doubtful (regs12 0xFFF 0) (.sb 2 0 1) = false ∧ doubtful (regs12 0xFFF 0) (.sb 2 1 1) = true ∧
    doubtful (withBytes (regs12 0x2001 0)) (.lb 2 0 1) = false := by decide

/-- SYSCALL, under an environment that answers alike from every `pc`. -/
theorem witness_OnlyLinksReadTheProgramCounter_syscall :
    { answering ⟨[(2, 9)], none, none, []⟩ with pc := 7 }.envAnswer =
      (answering ⟨[(2, 9)], none, none, []⟩).envAnswer ∧
    (∃ t, exec .syscall (answering ⟨[(2, 9)], none, none, []⟩) = .next t) ∧
    ∃ u, exec .syscall { answering ⟨[(2, 9)], none, none, []⟩ with pc := 7 } = .next u :=
  ⟨rfl, ⟨_, rfl⟩, _, rfl⟩

theorem witness_OnlyLinksReadTheProgramCounter :
    (∀ a o, Instr.beq 1 2 4 ≠ .bgezal a o ∧ Instr.beq 1 2 4 ≠ .bltzal a o) ∧ (∀ a, Instr.beq 1 2 4 ≠ .jal a) ∧
    (Instr.beq 1 2 4 = .syscall →
      { inSlot following with pc := 7 }.envAnswer = (inSlot following).envAnswer) ∧
    (∃ t, exec (.beq 1 2 4) (inSlot following) = .next t) ∧
    ∃ u, exec (.beq 1 2 4) { inSlot following with pc := 7 } = .next u :=
  ⟨fun _ _ => by simp, fun _ => by simp, fun _ => rfl, ⟨_, rfl⟩, _, rfl⟩

theorem witness_StoredWordIsReadBackAndItsBytesLieInOrder_big :
    (∃ t, storeWord (regs12 0 0) 0xFFFFFFFE 0x11223344 = .next t) ∧ (regs12 0 0).cfg.byteOrder = .big :=
  ⟨⟨_, rfl⟩, rfl⟩

theorem witness_StoredWordIsReadBackAndItsBytesLieInOrder_little :
    (∃ t, storeWord (under { Config.initial with byteOrder := .little } (regs12 0 0)) 0 0x11223344 = .next t) ∧
    (under { Config.initial with byteOrder := .little } (regs12 0 0)).cfg.byteOrder = .little :=
  ⟨⟨_, rfl⟩, rfl⟩

/-- The ends of the signed range and one beyond each, for ADD, ADDI and SUB. -/
theorem witness_SignedAddAndSubtractWriteOrTrap :
    ((regs12 0x7FFFFFFE 1).reg 1).toInt + ((regs12 0x7FFFFFFE 1).reg 2).toInt = 2 ^ 31 - 1 ∧
    ((regs12 0x7FFFFFFF 1).reg 1).toInt + ((regs12 0x7FFFFFFF 1).reg 2).toInt = 2 ^ 31 ∧
    ((regs12 0x80000001 0).reg 1).toInt + (0xFFFF#16).toInt = -2 ^ 31 ∧
    ((regs12 0x80000000 0).reg 1).toInt + (0xFFFF#16).toInt = -2 ^ 31 - 1 ∧
    ((regs12 0xFFFFFFFF 0x80000000).reg 1).toInt - ((regs12 0xFFFFFFFF 0x80000000).reg 2).toInt = 2 ^ 31 - 1 ∧
    ((regs12 0 0x80000000).reg 1).toInt - ((regs12 0 0x80000000).reg 2).toInt = 2 ^ 31 := by decide

theorem witness_SignedFormsAgreeWithUnsignedFormsUnlessTheyTrap :
    exec (.add 3 1 2) (regs12 0x7FFFFFFE 1) ≠ .fault (.overflow 0x1000) ∧
    exec (.sub 3 1 2) (regs12 0xFFFFFFFF 0x80000000) ≠ .fault (.overflow 0x1000) ∧
    exec (.addi 3 1 0xFFFF) (regs12 0x80000001 0) ≠ .fault (.overflow 0x1000) :=
  ⟨fun h => (by decide : faultOf (exec (.add 3 1 2) (regs12 0x7FFFFFFE 1)) ≠ some (.overflow 0x1000))
      (congrArg faultOf h),
   fun h => (by decide : faultOf (exec (.sub 3 1 2) (regs12 0xFFFFFFFF 0x80000000)) ≠ some (.overflow 0x1000))
      (congrArg faultOf h),
   fun h => (by decide : faultOf (exec (.addi 3 1 0xFFFF) (regs12 0x80000001 0)) ≠ some (.overflow 0x1000))
      (congrArg faultOf h)⟩

theorem witness_ImmediateLogicUnderEachSetting :
    (regs12 0 0).cfg.logicalImmExt = .zero ∧
    ((under refusing (regs12 0 0)).cfg.logicalImmExt = .refuse ∧ (0x7FFF#16).getLsbD 15 = false) ∧
    (under drawing (regs12 0 0)).cfg.logicalImmExt = .sign ∧
    ((under refusing (regs12 0 0)).cfg.logicalImmExt = .refuse ∧ (0x8000#16).getLsbD 15 = true) := by decide

/-- Both ways of meeting `transfersAllowed`: the parameter in a delay slot, and outside one under `refuse`. -/
theorem witness_EqualityBranchesMoveThePair :
    (inSlot following).transfersAllowed ∧ (under refusing (regs12 0 0)).transfersAllowed ∧
    (regs12 9 9).transfersAllowed ∧ (regs12 9 9).reg 1 = (regs12 9 9).reg 2 ∧
    (regs12 0 0x80000000).transfersAllowed ∧ (regs12 0 0x80000000).reg 1 ≠ (regs12 0 0x80000000).reg 2 := by decide

/-- The values where the signs meet: 0, -1 and 1. -/
theorem witness_SignBranchesMoveThePair :
    (regs12 0 0).transfersAllowed ∧ 0 ≤ ((regs12 0 0).reg 1).toInt ∧ ((regs12 0 0).reg 1).toInt ≤ 0 ∧
    (regs12 0xFFFFFFFF 0).transfersAllowed ∧ ((regs12 0xFFFFFFFF 0).reg 1).toInt < 0 ∧
    (regs12 1 0).transfersAllowed ∧ 0 < ((regs12 1 0).reg 1).toInt := by decide

theorem witness_TakenBranchAndLinkWritesTheReturnAddress :
    (regs12 0 0).transfersAllowed ∧ 0 ≤ ((regs12 0 0).reg 1).toInt ∧
    (regs12 0xFFFFFFFF 0).transfersAllowed ∧ ((regs12 0xFFFFFFFF 0).reg 1).toInt < 0 := by decide

theorem witness_NotTakenBranchAndLinkUnderEachSetting :
    ((regs12 0xFFFFFFFF 0).transfersAllowed ∧ ((regs12 0xFFFFFFFF 0).reg 1).toInt < 0 ∧
      (regs12 0xFFFFFFFF 0).cfg.linkWhenNotTaken = .no) ∧
    ((under otherwise (regs12 0 0)).transfersAllowed ∧ 0 ≤ ((under otherwise (regs12 0 0)).reg 1).toInt ∧
      (under otherwise (regs12 0 0)).cfg.linkWhenNotTaken = .yes) ∧
    ((under drawing (regs12 0 0)).transfersAllowed ∧ 0 ≤ ((under drawing (regs12 0 0)).reg 1).toInt ∧
      (under drawing (regs12 0 0)).cfg.linkWhenNotTaken = .draw) := by decide

theorem witness_JumpsGoToTheTargetInTheDelaySlotsRegion :
    (regs12 0 0).transfersAllowed ∧ (inSlot following).transfersAllowed := by decide

theorem witness_JumpRegisterGoesToTheRegister : (under refusing (regs12 3 0)).transfersAllowed := by decide

theorem witness_TransfersInADelaySlotAreRefusedUnderThatSetting :
    (inSlot refusing).cfg.delaySlotCti = .refuse ∧ (inSlot refusing).npc ≠ (inSlot refusing).pc + 4 := by decide

theorem witness_TheDelaySlotRunsBeforeTheTarget :
    isControlTransfer (.jr 1) = true ∧ isControlTransfer (.addiu 1 0 7) = false ∧
    ∃ t u, exec (.jr 1) (regs12 0x2000 0) = .next t ∧ exec (.addiu 1 0 7) t = .next u :=
  ⟨rfl, rfl, _, _, rfl, rfl⟩

theorem witness_MultiplyWritesTheProduct :
    (regs12 0 0).cfg.multHi = .highWord ∧ (under otherwise (regs12 0 0)).cfg.multHi = .unchanged ∧
    (under drawing (regs12 0 0)).cfg.multHi = .any ∧
    BitVec.ofInt 64 (((regs12 0x80000000 0x80000000).reg 1).toInt * ((regs12 0x80000000 0x80000000).reg 2).toInt) =
      0x4000000000000000#64 ∧
    BitVec.ofNat 64 (((regs12 0xFFFFFFFF 0xFFFFFFFF).reg 1).toNat * ((regs12 0xFFFFFFFF 0xFFFFFFFF).reg 2).toNat) =
      0xFFFFFFFE00000001#64 := by decide

theorem witness_SignedAndUnsignedMultiplyLeaveTheSameLow :
    (∃ t, exec (.mult 1 2) (regs12 0xFFFFFFFF 2) = .next t) ∧ ∃ u, exec (.multu 1 2) (regs12 0xFFFFFFFF 2) = .next u :=
  ⟨⟨_, rfl⟩, _, rfl⟩

theorem witness_DivideWritesQuotientAndRemainder :
    (regs12 0x80000000 1).reg 2 ≠ 0 ∧
    ¬ ((regs12 0x80000000 1).reg 1 = 0x80000000#32 ∧ (regs12 0x80000000 1).reg 2 = 0xFFFFFFFF#32) ∧
    (regs12 0x80000001 0xFFFFFFFF).reg 2 ≠ 0 ∧
    ¬ ((regs12 0x80000001 0xFFFFFFFF).reg 1 = 0x80000000#32 ∧ (regs12 0x80000001 0xFFFFFFFF).reg 2 = 0xFFFFFFFF#32) := by
  decide

theorem witness_UnsignedDivideWritesQuotientAndRemainder : (regs12 0x80000000 0xFFFFFFFF).reg 2 ≠ 0 := by decide

theorem witness_DivideSatisfiesTheDivisionIdentity :
    (regs12 0xFFFFFFF9 2).reg 2 ≠ 0 ∧
    ¬ ((regs12 0xFFFFFFF9 2).reg 1 = 0x80000000#32 ∧ (regs12 0xFFFFFFF9 2).reg 2 = 0xFFFFFFFF#32) ∧
    ∃ t, exec (.div 1 2) (regs12 0xFFFFFFF9 2) = .next t :=
  ⟨by decide, by decide, _, rfl⟩

theorem witness_UndefinedDivisionsRunOnWithFreeResults :
    (regs12 7 0).reg 2 = 0 ∧ (regs12 0x80000000 0xFFFFFFFF).reg 1 = 0x80000000#32 ∧
    (regs12 0x80000000 0xFFFFFFFF).reg 2 = 0xFFFFFFFF#32 ∧ (regs12 7 0).cfg.divUndefined = .anyValue ∧
    (under refusing (regs12 7 0)).reg 2 = 0 ∧ (under refusing (regs12 7 0)).cfg.divUndefined = .refuse := by decide

/-- The last address of the address space, under each setting. -/
theorem witness_LoadByteWritesTheExtendedByte :
    (State.putByte (regs12 0 0) 0xFFFFFFFF 0x80).mapped (0 + (0xFFFF#16).signExtend 32) = true ∧
    (State.putByte (regs12 0 0) 0xFFFFFFFF 0x80).byteAt (0 + (0xFFFF#16).signExtend 32) = some 0x80 ∧
    (regs12 0 0).cfg.lbExt = .sign ∧ (under otherwise (regs12 0 0)).cfg.lbExt = .zero ∧
    (under drawing (regs12 0 0)).cfg.lbExt = .draw := by decide

/-- The last word of the address space. -/
theorem witness_LoadWordWritesTheAssembledWord :
    (0xFFFFFFFC#32).extractLsb' 0 2 = 0 ∧ 0xFFFFFFFC#32 = (regs12 0 0).reg 1 + (0xFFFC#16).signExtend 32 ∧
    ((regs12 0 0).putWord 0xFFFFFFFC 0x11223344).mappedWord 0xFFFFFFFC = true ∧
    ((regs12 0 0).putWord 0xFFFFFFFC 0x11223344).byteAt 0xFFFFFFFC = some 0x11 ∧
    ((regs12 0 0).putWord 0xFFFFFFFC 0x11223344).byteAt (0xFFFFFFFC + 1) = some 0x22 ∧
    ((regs12 0 0).putWord 0xFFFFFFFC 0x11223344).byteAt (0xFFFFFFFC + 2) = some 0x33 ∧
    ((regs12 0 0).putWord 0xFFFFFFFC 0x11223344).byteAt (0xFFFFFFFC + 3) = some 0x44 ∧
    (regs12 0 0).cfg.byteOrder = .big ∧
    (under { Config.initial with byteOrder := .little } (regs12 0 0)).cfg.byteOrder = .little := by decide

/-- TEXT ends at 0x1FFF; the one-word map ends at 0x1003. -/
theorem witness_StoreByteStoresTheLowByte :
    (regs12 0x1FFF 0).mapped 0x1FFF = true ∧ (regs12 0x1FFF 0).cfg.textStores = .seen ∧
    (under refusing (regs12 0x2000 0)).mapped 0x2000 = true ∧
    (under refusing (regs12 0x2000 0)).inText 0x2000 = false ∧
    (under oneWordMap (regs12 0x1003 0)).mapped 0x1003 = true ∧
    (under oneWordMap (regs12 0x1004 0)).mapped 0x1004 = false ∧
    0x1004#32 = (under oneWordMap (regs12 0x1004 0)).reg 1 + (0#16).signExtend 32 := by decide

theorem witness_StoreWordStoresTheFourBytes :
    (0x1FFC#32).extractLsb' 0 2 = 0 ∧ (regs12 0x1FFC 0).mappedWord 0x1FFC = true ∧
    (regs12 0x1FFC 0).cfg.textStores = .seen ∧
    (under refusing (regs12 0x2000 0)).mappedWord 0x2000 = true ∧
    (under refusing (regs12 0x2000 0)).wordInText 0x2000 = false ∧
    (regs12 0x1FFC 0).cfg.byteOrder = .big ∧
    (under { Config.initial with byteOrder := .little } (regs12 0x1FFC 0)).cfg.byteOrder = .little := by decide

theorem witness_DataAccessesTrapInPriorityOrder :
    (0x1001#32).extractLsb' 0 2 ≠ 0 ∧ (0x1003#32).extractLsb' 0 2 ≠ 0 ∧
    (0x1004#32).extractLsb' 0 2 = 0 ∧ (under oneWordMap (regs12 0x1004 0)).mappedWord 0x1004 = false ∧
    (under oneWordMap (regs12 0x0FFF 0)).mapped 0x0FFF = false ∧
    0x0FFF#32 = (under oneWordMap (regs12 0x0FFF 0)).reg 1 + (0#16).signExtend 32 := by decide

/-- A word whose last byte only has no value, and that byte itself. -/
theorem witness_DataAccessesTrapInPriorityOrder_unwritten :
    { regs12 0x2000 0 with mem := [(0x2000, 0), (0x2001, 0), (0x2002, 0)] }.mappedWord 0x2000 = true ∧
    { regs12 0x2000 0 with mem := [(0x2000, 0), (0x2001, 0), (0x2002, 0)] }.byteAt (0x2000 + 3) = none ∧
    (0x2000#32).extractLsb' 0 2 = 0 ∧ 0x2000#32 = (regs12 0x2000 0).reg 1 + (0#16).signExtend 32 ∧
    (regs12 0x2003 0).mapped 0x2003 = true ∧ (regs12 0x2003 0).byteAt 0x2003 = none := by decide

theorem witness_StoresIntoTextAreSeenByFetchOrRefused :
    (under refusing (regs12 0x1FFF 0)).mapped 0x1FFF = true ∧ (under refusing (regs12 0x1FFF 0)).inText 0x1FFF = true ∧
    (under refusing (regs12 0x1FFC 0)).mappedWord 0x1FFC = true ∧
    (under refusing (regs12 0x1FFC 0)).wordInText 0x1FFC = true ∧
    ∃ u, exec (.sw 2 0 1) (regs12 0x1000 0) = .next u ∧ { u with pc := 0x1000 }.mem = u.mem ∧
      { u with pc := 0x1000 }.cfg = u.cfg ∧ { u with pc := 0x1000 }.pc = 0x1000 :=
  ⟨by decide, by decide, by decide, by decide, _, rfl, rfl, rfl, rfl⟩

/-- SB into the last byte of a word whose other three bytes hold values. -/
theorem witness_StoresIntoTextAreSeenByFetchOrRefused_byte :
    (∃ u, exec (.sb 2 0 1) (withBytes (regs12 0x2003 0xAA)) = .next u ∧ { u with pc := 0x2000 }.mem = u.mem ∧
      { u with pc := 0x2000 }.cfg = u.cfg) ∧
    isAligned 0x2000 = true ∧ (regs12 0 0).mappedWord 0x2000 = true ∧ 0x2003#32 = 0x2000 + BitVec.ofNat 32 3 ∧
    ∀ j < 4, j ≠ 3 → ((withBytes (regs12 0x2003 0xAA)).byteAt (0x2000 + BitVec.ofNat 32 j)).isSome = true :=
  ⟨⟨_, rfl, rfl, rfl⟩, by decide, by decide, by decide, by decide⟩

/-- The amounts at which the settings part: 31, 32 and the largest. -/
theorem witness_VariableShiftsUnderEachSetting :
    (regs12 0 0).cfg.varShiftAmount = .low5 ∧
    ((under refusing (regs12 31 0)).cfg.varShiftAmount = .refuse ∧ ((under refusing (regs12 31 0)).reg 1).toNat < 32) ∧
    ((under drawing (regs12 31 0)).cfg.varShiftAmount = .full ∧ ((under drawing (regs12 31 0)).reg 1).toNat < 32) ∧
    ((under drawing (regs12 32 0)).cfg.varShiftAmount = .full ∧ 32 ≤ ((under drawing (regs12 32 0)).reg 1).toNat) ∧
    ((under refusing (regs12 0xFFFFFFFF 0)).cfg.varShiftAmount = .refuse ∧
      32 ≤ ((under refusing (regs12 0xFFFFFFFF 0)).reg 1).toNat) := by decide

theorem witness_SyscallHaltsWithTheResultAttached :
    State.reset.env = .absent ∧ { State.reset with env := .script [.halt [5]] (.halt []) }.envAnswer = .halt [5] ∧
    exec .syscall State.reset = .fault (.syscall 0x1000 []) ∧
    exec (.add 3 1 2) (regs12 0x7FFFFFFF 1) = .fault (.overflow 0x1000) :=
  ⟨rfl, rfl, rfl, rfl⟩

theorem witness_SyscallResumesAfterTheInstruction :
    (answering twoOfEach).envAnswer = .resume twoOfEach ∧
    (∀ x ∈ twoOfEach.regs, x.1 ≠ 3) ∧ (∀ x ∈ twoOfEach.mem, x.1 ≠ 0x2002) ∧
    twoOfEach.regs = [(2, 9)] ++ (4, 1) :: [(2, 8), (0, 5)] ∧
    (∀ x ∈ ([(2, 8), (0, 5)] : List (Reg × Word)), x.1 ≠ 4) ∧
    twoOfEach.regs = [(2, 9), (4, 1), (2, 8)] ++ (0, 5) :: [] ∧
    twoOfEach.mem = [] ++ (0x2000, 7) :: [(0x2001, 6)] ∧
    (∀ x ∈ ([(0x2001, 6)] : List (Word × Byte)), x.1 ≠ 0x2000) ∧ (answering twoOfEach).mapped 0x2000 = true ∧
    (under oneWordMap (answering twoOfEach)).mapped 0x2000 = false :=
  ⟨rfl, by simp [twoOfEach], by simp [twoOfEach], rfl, by simp, rfl, rfl, by simp, by decide, by decide⟩

theorem witness_EnvironmentsAnswerAsSupplied_ofState :
    { State.reset with env := .ofState 3 }.env = .ofState 3 ∧
    { under drawing State.reset with env := .ofState 3 }.env = .ofState 3 ∧
    { State.reset with env := .ofState 3 }.view = { under drawing State.reset with env := .ofState 3 }.view ∧
    State.reset.cfg.memMap = drawing.memMap :=
  ⟨rfl, rfl, rfl, rfl⟩

theorem witness_EnvironmentsAnswerAsSupplied_script :
    (answering twoOfEach).env = .script [] (.resume twoOfEach) ∧
    { State.reset with env := .script [.resume twoOfEach] (.halt []) }.env =
      .script (.resume twoOfEach :: []) (.halt []) :=
  ⟨rfl, rfl⟩

end Sys2Proof.Tests
end

section
/-! SUPPORT. What holds of every instruction and every step at once: where the pair (pc, npc) goes and what of the
model's own fields a next state keeps (spec/10_state.md R25 to R27), and which settings refuse (spec/00_scope.md R4). -/

namespace Sys2Proof.Machine

/-! ## The step -/

/-- R11: a word that is fetched and decodes is executed, with nothing around it. -/
theorem step_of_fetch_decode {s : State} {w : Word} {i : Instr} (hw : fetch s = .next w) (hi : decode w = .ok i) :
    step s = exec i s := by
  simp [step, hw, hi]

/-- Neither the fetch nor the decoder refuses: a refused step is a refused instruction. -/
theorem step_eq_refused {s : State} {r : Refusal} (h : step s = .refused r) : ∃ i, exec i s = .refused r := by
  rcases andThen_eq_refused.1 h with hfetch | ⟨w, -, h⟩
  · exact absurd hfetch loadAligned_ne_refused
  · split at h
    · exact ⟨_, h⟩
    · simp at h

/-! ## `link`, `linkNotTaken` and `branch` -/

@[simp] theorem State.link_npc (s : State) : s.link.npc = s.npc := by simp [State.link]
@[simp] theorem State.link_cfg (s : State) : s.link.cfg = s.cfg := by simp [State.link]
@[simp] theorem State.link_env (s : State) : s.link.env = s.env := by simp [State.link]
@[simp] theorem State.link_draws (s : State) : s.link.draws = s.draws := by simp [State.link]

@[simp] theorem State.linkNotTaken_npc (s : State) : s.linkNotTaken.npc = s.npc := by
  unfold State.linkNotTaken; split <;> simp
@[simp] theorem State.linkNotTaken_cfg (s : State) : s.linkNotTaken.cfg = s.cfg := by
  unfold State.linkNotTaken; split <;> simp
@[simp] theorem State.linkNotTaken_env (s : State) : s.linkNotTaken.env = s.env := by
  unfold State.linkNotTaken; split <;> simp
theorem State.draws_le_linkNotTaken (s : State) : s.draws ≤ s.linkNotTaken.draws := by
  unfold State.linkNotTaken; split <;> simp

/-- Where a conditional branch sends `npc` (R120). -/
theorem State.branch_npc (s : State) (taken : Bool) (o : Half) :
    (s.branch taken o).npc = if taken then s.npc + (o.signExtend 32 <<< 2) else s.npc + 4 := by
  cases taken <;> rfl

/-! ## Going on -/

/-- `t` goes on from `s` to `target`: the pair has moved to (N, target), the parameters and the environment are as
before, and no free value is used twice. -/
structure GoesOn (s t : State) (target : Word) : Prop where
  pc : t.pc = s.npc
  npc : t.npc = target
  cfg : t.cfg = s.cfg
  env : t.env = s.env
  draws : s.draws ≤ t.draws

/-- Free values used up on the way change nothing else. -/
theorem GoesOn.of_skipDraws {s t : State} {n : Nat} {target : Word} (h : GoesOn (s.skipDraws n) t target) :
    GoesOn s t target :=
  ⟨h.pc, h.npc, h.cfg, h.env, (Nat.le_add_right s.draws n).trans h.draws⟩

theorem finishReg_goesOn (s : State) (d : Reg) (v : Word) : GoesOn s (finishReg s d v) (s.npc + 4) := by
  constructor <;> simp

theorem finishHiLo_goesOn (s : State) (hi lo : Word) : GoesOn s (finishHiLo s hi lo) (s.npc + 4) := by
  constructor <;> simp [finishHiLo]

theorem putByte_goesOn (s : State) (a : Word) (b : Byte) : GoesOn s ((s.putByte a b).advancePc 4) (s.npc + 4) := by
  constructor <;> simp

theorem putWord_goesOn (s : State) (a v : Word) : GoesOn s ((s.putWord a v).advancePc 4) (s.npc + 4) := by
  constructor <;> simp

theorem jumpTo_goesOn (s : State) (a : Word) : GoesOn s (s.jumpTo a) a := by
  constructor <;> simp

theorem link_jumpTo_goesOn (s : State) (a : Word) : GoesOn s (s.link.jumpTo a) a := by
  constructor <;> simp

theorem branch_goesOn (s : State) (taken : Bool) (o : Half) :
    GoesOn s (s.branch taken o) (if taken then s.npc + (o.signExtend 32 <<< 2) else s.npc + 4) :=
  ⟨rfl, State.branch_npc s taken o, rfl, rfl, le_rfl⟩

/-- A branch and link goes where the branch alone goes, whatever it leaves in `$31`. -/
theorem branchLink_goesOn (s : State) (taken : Bool) (o : Half) :
    GoesOn s (s.branchLink taken o) (if taken then s.npc + (o.signExtend 32 <<< 2) else s.npc + 4) := by
  cases taken
  · constructor <;> simp [State.branchLink, State.branch, State.draws_le_linkNotTaken]
  · constructor <;> simp [State.branchLink, State.branch, branchDisplacement, sext]

/-- The table of R27 outside SYSCALL: every instruction that has a next state goes on to its row's `npc`. -/
theorem exec_goesOn {i : Instr} {s t : State} (hi : i ≠ .syscall) (h : exec i s = .next t) :
    GoesOn s t (npcAfter s i) := by
  cases i with
  | add | addi | sub =>
    obtain ⟨-, rfl⟩ := finishSigned_eq_next.1 h
    exact finishReg_goesOn ..
  | addiu | addu | subu | and | or | xor | lui | slt | slti | sltiu | sltu | sll | sra | srl | mfhi | mflo =>
    obtain rfl := Host.Outcome.next.inj h
    exact finishReg_goesOn ..
  | andi | ori | xori | sllv | srlv | lw =>
    obtain ⟨m, -, h⟩ := andThen_eq_next.1 h
    obtain rfl := Host.Outcome.next.inj h
    exact finishReg_goesOn ..
  | lb =>
    obtain ⟨b, -, h⟩ := andThen_eq_next.1 h
    obtain rfl := Host.Outcome.next.inj h
    exact (finishReg_goesOn ..).of_skipDraws
  | sb =>
    obtain ⟨u, hu, h⟩ := andThen_eq_next.1 h
    obtain ⟨-, -, rfl⟩ := storeByte_eq_next.1 hu
    obtain rfl := Host.Outcome.next.inj h
    exact putByte_goesOn ..
  | sw =>
    obtain ⟨u, hu, h⟩ := andThen_eq_next.1 h
    obtain ⟨-, hu⟩ := storeAligned_eq_next.1 hu
    obtain ⟨-, -, rfl⟩ := storeWord_eq_next.1 hu
    obtain rfl := Host.Outcome.next.inj h
    exact putWord_goesOn ..
  | mult | multu =>
    obtain rfl := Host.Outcome.next.inj h
    exact (finishHiLo_goesOn ..).of_skipDraws
  | div | divu =>
    simp only [exec, execDiv, execDivu] at h
    split at h
    · obtain ⟨-, rfl⟩ := finishUndefinedDivision_eq_next.1 h
      exact (finishHiLo_goesOn ..).of_skipDraws
    · obtain rfl := Host.Outcome.next.inj h
      exact finishHiLo_goesOn ..
  | noop =>
    obtain rfl := Host.Outcome.next.inj h
    exact jumpTo_goesOn ..
  | beq | bgez | bgtz | blez | bltz =>
    obtain ⟨-, rfl⟩ := controlTransfer_eq_next.1 h
    exact branch_goesOn ..
  | bne a b o =>
    obtain ⟨-, rfl⟩ := controlTransfer_eq_next.1 h
    have htaken : (s.reg a != s.reg b) = branchTaken s (.bne a b o) :=
      Bool.eq_iff_iff.2 (by simp [branchTaken])
    exact htaken ▸ branch_goesOn ..
  | bgezal | bltzal =>
    obtain ⟨-, rfl⟩ := controlTransfer_eq_next.1 h
    exact branchLink_goesOn ..
  | j | jr =>
    obtain ⟨-, rfl⟩ := controlTransfer_eq_next.1 h
    exact jumpTo_goesOn ..
  | jal =>
    obtain ⟨-, rfl⟩ := controlTransfer_eq_next.1 h
    exact link_jumpTo_goesOn ..
  | syscall => exact absurd rfl hi

/-- What SYSCALL keeps: it goes on only where the environment resumes, and the environment has then given one
answer. -/
theorem exec_syscall_keeps {s t : State} (h : exec .syscall s = .next t) :
    t.pc = s.npc ∧ t.npc = s.npc + 4 ∧ t.cfg = s.cfg ∧ t.draws = s.draws ∧ (∃ c, s.envAnswer = .resume c) ∧
      t.env = s.envRest := by
  obtain ⟨c, hc, rfl⟩ := execSyscall_eq_next.1 h
  obtain ⟨hpc, hnpc, -, -, hcfg, henv, hdraws⟩ := resumeSyscall_keeps s c
  exact ⟨hpc, hnpc, hcfg, hdraws, ⟨c, hc⟩, henv⟩

theorem exec_keeps_parameters_and_inputs {i : Instr} {s t : State} (h : exec i s = .next t) :
    t.cfg = s.cfg ∧ s.draws ≤ t.draws ∧ (i ≠ .syscall → t.env = s.env) ∧
      (i = .syscall → (∃ c, s.envAnswer = .resume c) ∧ t.env = s.envRest) := by
  by_cases hi : i = .syscall
  · subst hi
    obtain ⟨-, -, hcfg, hdraws, hanswer, henv⟩ := exec_syscall_keeps h
    exact ⟨hcfg, hdraws.ge, fun hne => absurd rfl hne, fun _ => ⟨hanswer, henv⟩⟩
  · have hgo := exec_goesOn hi h
    exact ⟨hgo.cfg, hgo.draws, fun _ => hgo.env, fun heq => absurd heq hi⟩

/-! ## What is refused -/

theorem logicalImm_eq_refused {s : State} {imm : Half} {x : Refusal} (h : logicalImm s imm = .refused x) :
    s.cfg.logicalImmExt = .refuse := by
  unfold logicalImm at h; split at h <;> simp_all

theorem variableAmount_eq_refused {s : State} {v : Word} {x : Refusal} (h : variableAmount s v = .refused x) :
    s.cfg.varShiftAmount = .refuse := by
  unfold variableAmount at h; split at h <;> simp_all

theorem finishUndefinedDivision_eq_refused {s : State} {x : Refusal} (h : finishUndefinedDivision s = .refused x) :
    s.cfg.divUndefined = .refuse := by
  unfold finishUndefinedDivision at h; split at h <;> simp_all

/-- A part of a step before an end that always goes on: only the part can be refused. -/
theorem refused_of_andThen_next {α β : Type} {r : Res α} {f : α → β} {x : Refusal}
    (h : andThen r (fun a => .next (f a)) = .refused x) : r = .refused x := by
  simpa [andThen_eq_refused] using h

/-- R4: an instruction is refused by a setting named refuse, and by `DELAY_SLOT_CTI` only as R133 says. -/
theorem exec_eq_refused {i : Instr} {s : State} {x : Refusal} (h : exec i s = .refused x) :
    (isControlTransfer i = true ∧ s.cfg.delaySlotCti = .refuse ∧ s.npc ≠ s.pc + 4 ∧
      x = .controlTransferInDelaySlot s.pc) ∨ ¬ refusesOnlyInDelaySlots s.cfg := by
  cases i with
  | beq | bgez | bgezal | bgtz | blez | bltz | bltzal | bne | j | jal | jr =>
    exact .inl ⟨rfl, controlTransfer_refused_cases h⟩
  | add | addi | sub => exact absurd h finishSigned_ne_refused
  | addiu | addu | subu | and | or | xor | lui | slt | slti | sltiu | sltu | sll | sra | srl | mfhi | mflo | mult
  | multu | noop => exact nomatch h
  | andi | ori | xori =>
    exact .inr fun ⟨himm, _⟩ => himm (logicalImm_eq_refused (refused_of_andThen_next h))
  | sllv | srlv =>
    exact .inr fun ⟨_, hamount, _⟩ => hamount (variableAmount_eq_refused (refused_of_andThen_next h))
  | lb => exact absurd (refused_of_andThen_next h) loadByte_ne_refused
  | lw => exact absurd (refused_of_andThen_next h) loadAligned_ne_refused
  | sb => exact .inr fun ⟨_, _, _, htext⟩ => htext (storeByte_refused_cases (refused_of_andThen_next h))
  | sw => exact .inr fun ⟨_, _, _, htext⟩ => htext (storeAligned_refused_cases (refused_of_andThen_next h))
  | div | divu =>
    simp only [exec, execDiv, execDivu] at h
    split at h
    · exact .inr fun ⟨_, _, hdiv, _⟩ => hdiv (finishUndefinedDivision_eq_refused h)
    · exact nomatch h
  | syscall => exact absurd h execSyscall_ne_refused

/-! ## The obligations -/

/-- Settles O8: aligned and readable is what the fetch asks. -/
theorem stepRunsTheDecodedInstruction : Obligations.StepRunsTheDecodedInstruction := by
  intro s w i haligned hload hdecode _
  exact step_of_fetch_decode (loadAligned_eq_next.2 ⟨haligned, hload⟩) hdecode

/-- Settles O13: the statement on steps is the one on the instruction the step ran. -/
theorem stepKeepsParametersAndInputs : Obligations.StepKeepsParametersAndInputs := by
  refine ⟨fun i s t => exec_keeps_parameters_and_inputs, fun s t h => ?_⟩
  obtain ⟨-, i, -, -, hexec⟩ := step_eq_next h
  obtain ⟨hcfg, hdraws, hother, hsyscall⟩ := exec_keeps_parameters_and_inputs hexec
  refine ⟨hcfg, hdraws, ?_⟩
  by_cases hi : i = .syscall
  · exact .inr (hsyscall hi)
  · exact .inl (hother hi)

/-- Settles O15: SYSCALL's row is `npc + 4`, the others are those of `exec_goesOn`. -/
theorem everyInstructionAdvancesThePairAsTabled : Obligations.EveryInstructionAdvancesThePairAsTabled := by
  intro i s t h
  by_cases hi : i = .syscall
  · subst hi
    obtain ⟨hpc, hnpc, -⟩ := exec_syscall_keeps h
    exact ⟨hpc, hnpc⟩
  · have hgo := exec_goesOn hi h
    exact ⟨hgo.pc, hgo.npc⟩

/-- Settles O21: a refused step is a refused instruction, and `exec_eq_refused` says which setting refused it. -/
theorem nothingIsRefusedWithoutARefusingSetting : Obligations.NothingIsRefusedWithoutARefusingSetting := by
  have hexec : ∀ {s : State} {r : Refusal} {i : Instr}, refusesOnlyInDelaySlots s.cfg → exec i s = .refused r →
      isControlTransfer i = true ∧ s.cfg.delaySlotCti = .refuse ∧ s.npc ≠ s.pc + 4 ∧
        r = .controlTransferInDelaySlot s.pc :=
    fun hcfg h => (exec_eq_refused h).resolve_right fun hnot => hnot hcfg
  refine ⟨fun s r ⟨hcfg, hslot⟩ => ?_, fun s r hcfg => ⟨fun i h => ?_, fun h => ?_⟩, by decide, rfl⟩
  · have hnone : ∀ i, exec i s ≠ .refused r := fun i h => hslot (hexec hcfg h).2.1
    exact ⟨fun h => (step_eq_refused h).elim hnone, hnone⟩
  · obtain ⟨htransfer, -, hnpc, hr⟩ := hexec hcfg h
    exact ⟨htransfer, hnpc, hr⟩
  · obtain ⟨i, hi⟩ := step_eq_refused h
    obtain ⟨-, -, hnpc, hr⟩ := hexec hcfg hi
    exact ⟨hnpc, hr⟩

end Sys2Proof.Machine
end

section
/-! SUPPORT. The machine under exchanged parameters: which operations do not look at the settings, and when the others
give the same under any (spec/92_eei_decisions.md, "Settings for a cautious model"). -/

namespace Sys2Proof.Machine

/-- The state with other parameters; `withConfig` does the same to an outcome. -/
def State.withCfg (s : State) (c : Config) : State := { s with cfg := c }

@[simp] theorem State.withCfg_hi (s : State) (c : Config) : (s.withCfg c).hi = s.hi := rfl
@[simp] theorem State.withCfg_lo (s : State) (c : Config) : (s.withCfg c).lo = s.lo := rfl
@[simp] theorem State.withCfg_pc (s : State) (c : Config) : (s.withCfg c).pc = s.pc := rfl
@[simp] theorem State.withCfg_npc (s : State) (c : Config) : (s.withCfg c).npc = s.npc := rfl
@[simp] theorem State.withCfg_mem (s : State) (c : Config) : (s.withCfg c).mem = s.mem := rfl
@[simp] theorem State.withCfg_cfg (s : State) (c : Config) : (s.withCfg c).cfg = c := rfl
@[simp] theorem State.withCfg_env (s : State) (c : Config) : (s.withCfg c).env = s.env := rfl
@[simp] theorem State.withCfg_draws (s : State) (c : Config) : (s.withCfg c).draws = s.draws := rfl
@[simp] theorem State.withCfg_reg (s : State) (c : Config) (r : Reg) : (s.withCfg c).reg r = s.reg r := rfl
@[simp] theorem State.withCfg_byteAt (s : State) (c : Config) (a : Word) : (s.withCfg c).byteAt a = s.byteAt a := rfl
@[simp] theorem State.withCfg_envAnswer (s : State) (c : Config) : (s.withCfg c).envAnswer = s.envAnswer := rfl
@[simp] theorem State.withCfg_envRest (s : State) (c : Config) : (s.withCfg c).envRest = s.envRest := rfl

@[simp] theorem withConfig_next (c : Config) (s : State) : withConfig c (.next s) = .next (s.withCfg c) := rfl
@[simp] theorem withConfig_fault (c : Config) (f : Fault) : withConfig c (.fault f) = .fault f := rfl
@[simp] theorem withConfig_refused (c : Config) (r : Refusal) : withConfig c (.refused r) = .refused r := rfl

/-- A part that gives a value, and after it a rule: exchanging the parameters can wait until after the part. -/
theorem withConfig_andThen {α : Type} (c : Config) (r : Res α) (k : α → Res State) :
    withConfig c (andThen r k) = andThen r fun a => withConfig c (k a) := by
  cases r <;> rfl

/-- Two rules after one part need agree only on the values the part can give. -/
theorem andThen_congr {α β : Type} {r : Res α} {k k' : α → Res β} (h : ∀ a, r = .next a → k a = k' a) :
    andThen r k = andThen r k' := by
  cases r with
  | next a => exact h a rfl
  | fault | refused => rfl

/-! ## Operations that do not look at the settings -/

theorem setReg_withCfg (s : State) (c : Config) (r : Reg) (v : Word) :
    (s.withCfg c).setReg r v = (s.setReg r v).withCfg c := by
  unfold State.setReg; split <;> rfl

theorem finishReg_withCfg (s : State) (c : Config) (d : Reg) (v : Word) :
    finishReg (s.withCfg c) d v = (finishReg s d v).withCfg c := by
  rw [finishReg, setReg_withCfg]; rfl

theorem link_withCfg (s : State) (c : Config) : (s.withCfg c).link = s.link.withCfg c :=
  setReg_withCfg s c 31 (linkValue s)

theorem finishSigned_withCfg (s : State) (c : Config) (d : Reg) (e : Int) :
    finishSigned (s.withCfg c) d e = withConfig c (finishSigned s d e) := by
  unfold finishSigned; split
  · rfl
  · rw [finishReg_withCfg]; rfl

theorem setRegs_withCfg (s : State) (c : Config) (l : List (Reg × Word)) :
    (s.withCfg c).setRegs l = (s.setRegs l).withCfg c := by
  induction l generalizing s with
  | nil => rfl
  | cons x rest ih => rw [State.setRegs, setReg_withCfg, ih]; rfl

/-! ## Operations that look at the platform only: byte order, map and `TEXT` -/

section Platform

variable {s : State} {c : Config} (hc : samePlatform s.cfg c)
include hc

theorem mapped_withCfg (a : Word) : (s.withCfg c).mapped a = s.mapped a := by
  obtain ⟨-, hmap, -⟩ := hc
  simp [State.mapped, hmap]

theorem mappedWord_withCfg (a : Word) : (s.withCfg c).mappedWord a = s.mappedWord a := by
  simp only [State.mappedWord, mapped_withCfg hc]

theorem inText_withCfg (a : Word) : (s.withCfg c).inText a = s.inText a := by
  obtain ⟨-, -, htext⟩ := hc
  simp [State.inText, htext]

theorem wordInText_withCfg (a : Word) : (s.withCfg c).wordInText a = s.wordInText a := by
  simp only [State.wordInText, inText_withCfg hc]

theorem loadByte_withCfg (kind : Access) (a : Word) : loadByte (s.withCfg c) kind a = loadByte s kind a := by
  simp only [loadByte, mapped_withCfg hc, State.withCfg_byteAt, State.withCfg_pc]

theorem loadAligned_withCfg (kind : Access) (a : Word) : loadAligned (s.withCfg c) kind a = loadAligned s kind a := by
  have horder : s.cfg.byteOrder = c.byteOrder := hc.1
  simp only [loadAligned, loadWord, mappedWord_withCfg hc, State.withCfg_byteAt, State.withCfg_pc, State.withCfg_cfg,
    horder]

theorem putWord_withCfg (a v : Word) : (s.withCfg c).putWord a v = (s.putWord a v).withCfg c := by
  obtain ⟨horder, -⟩ := hc
  simp only [State.putWord, State.withCfg_cfg, horder]
  rfl

theorem putBytes_withCfg (l : List (Word × Byte)) : (s.withCfg c).putBytes l = (s.putBytes l).withCfg c := by
  induction l generalizing s with
  | nil => rfl
  | cons x rest ih =>
    rw [State.putBytes, State.putBytes, mapped_withCfg hc]
    split
    · exact ih (s := s.putByte x.1 x.2) hc
    · exact ih hc

theorem resumeSyscall_withCfg (x : EnvChange) :
    resumeSyscall (s.withCfg c) x = (resumeSyscall s x).withCfg c := by
  have hc' : samePlatform ((s.setRegs x.regs).setHiLo (x.hi.getD s.hi) (x.lo.getD s.lo)).cfg c := by
    obtain ⟨-, -, -, -, -, hcfg, -⟩ := State.setRegs_keeps s x.regs
    simpa [hcfg] using hc
  have happly : (s.withCfg c).applyEnv x = (s.applyEnv x).withCfg c := by
    rw [State.applyEnv, setRegs_withCfg]
    exact putBytes_withCfg hc' x.mem
  rw [resumeSyscall, happly]; rfl

theorem execSyscall_withCfg : execSyscall (s.withCfg c) = withConfig c (execSyscall s) := by
  rw [execSyscall, execSyscall, State.withCfg_envAnswer]
  split
  · rfl
  · rw [resumeSyscall_withCfg hc]; rfl

/-! ## Operations that look at a setting in a doubtful case only -/

theorem storeByte_withCfg {a : Word} (b : Byte) (htext : s.inText a = false) :
    storeByte (s.withCfg c) a b = withConfig c (storeByte s a b) := by
  simp only [storeByte, mapped_withCfg hc, inText_withCfg hc, htext, Bool.false_eq_true, and_false, if_false]
  split <;> rfl

theorem storeAligned_withCfg {a : Word} (v : Word) (htext : s.wordInText a = false) :
    storeAligned (s.withCfg c) a v = withConfig c (storeAligned s a v) := by
  simp only [storeAligned, storeWord, mappedWord_withCfg hc, wordInText_withCfg hc, htext, putWord_withCfg hc,
    Bool.false_eq_true, and_false, if_false]
  split <;> [split; skip] <;> rfl

end Platform

/-- Outside a delay slot `DELAY_SLOT_CTI` says nothing (R133). -/
theorem controlTransfer_withCfg {s u u' : State} {c : Config} (hnpc : s.npc = s.pc + 4) (hu : u' = u.withCfg c) :
    controlTransfer (s.withCfg c) u' = withConfig c (controlTransfer s u) := by
  simp [controlTransfer, hnpc, hu]

/-- With bit 15 clear the two extensions of the immediate agree (R81, U10). -/
theorem logicalImm_of_not_msb (s : State) {imm : Half} (hmsb : imm.msb = false) :
    logicalImm s imm = .next (zext imm) := by
  have hsext : sext imm = zext imm := BitVec.signExtend_eq_setWidth_of_msb_false hmsb
  unfold logicalImm; split <;> simp [hsext, hmsb]

/-- An amount below 32 is its own low five bits (R161, U11). -/
theorem variableAmount_of_lt (s : State) {v : Word} (hv : v.toNat < 32) : variableAmount s v = .next v.toNat := by
  have hlow : (v.extractLsb' 0 5).toNat = v.toNat := by
    simpa [BitVec.extractLsb'_toNat] using Nat.mod_eq_of_lt hv
  unfold variableAmount; split <;> simp [hlow, hv]

theorem State.anyOf_self (s : State) (a : Word) : s.anyOf a a = a := by
  simp [State.anyOf]

/-- With bit 7 clear the two readings of LB agree (R151, U9). -/
theorem extendByte_of_not_msb (s : State) {b : Byte} (hmsb : b.msb = false) : extendByte s b = b.zeroExtend 32 := by
  have hsext : b.signExtend 32 = b.zeroExtend 32 := BitVec.signExtend_eq_setWidth_of_msb_false hmsb
  unfold extendByte; split <;> simp [hsext, State.anyOf_self]

theorem extendByteDraws_of_not_msb (s : State) {b : Byte} (hmsb : b.msb = false) : extendByteDraws s b = 0 := by
  unfold extendByteDraws; split <;> simp [hmsb]

/-! ## All instructions -/

/-- A register write computed from a part that the parameters do not change. -/
theorem andThen_finishReg_withCfg {α : Type} (s : State) (c : Config) {r r' : Res α} (hr : r' = r) (d : Reg)
    (f : α → Word) :
    andThen r' (fun a => .next (finishReg (s.withCfg c) d (f a))) =
      withConfig c (andThen r fun a => .next (finishReg s d (f a))) := by
  simp only [hr, withConfig_andThen, finishReg_withCfg, withConfig_next]

/-- A store and the advance after it. -/
theorem andThen_advancePc_withCfg (c : Config) {r r' : Res State} (hr : r' = withConfig c r) :
    andThen r' (fun u => .next (u.advancePc 4)) = withConfig c (andThen r fun u => .next (u.advancePc 4)) := by
  subst hr; cases r <;> rfl

theorem execLb_withCfg {s : State} {c : Config} (hc : samePlatform s.cfg c) (t : Reg) (o : Half) (a : Reg)
    (hb : ((s.byteAt (effectiveAddress s a o)).getD 0).msb = false) :
    execLb t o a (s.withCfg c) = withConfig c (execLb t o a s) := by
  have haddr : effectiveAddress (s.withCfg c) a o = effectiveAddress s a o := rfl
  rw [execLb, execLb, haddr, loadByte_withCfg hc, withConfig_andThen]
  refine andThen_congr fun b hload => ?_
  obtain ⟨-, hbyte⟩ := loadByte_eq_next.1 hload
  have hmsb : b.msb = false := by simpa [hbyte] using hb
  simp only [extendByte_of_not_msb _ hmsb, extendByteDraws_of_not_msb _ hmsb]
  exact congrArg Host.Outcome.next (finishReg_withCfg (s.skipDraws 0) c t _)

/-- A taken branch and link does not look at `LINK_WHEN_NOT_TAKEN` (R123). -/
theorem branchLink_taken_withCfg (s : State) (c : Config) (o : Half) :
    (s.withCfg c).branchLink true o = (s.branchLink true o).withCfg c := by
  simp only [State.branchLink, if_true, link_withCfg]
  rfl

/-- Outside the doubtful cases of `doubtful`, exchanging the parameters before an instruction or after it is the
same. -/
theorem exec_withCfg {i : Instr} {s : State} {c : Config} (hc : samePlatform s.cfg c) (hi : doubtful s i = false) :
    exec i (s.withCfg c) = withConfig c (exec i s) := by
  cases i with
  | add | addi | sub => exact finishSigned_withCfg ..
  | addiu | addu | subu | and | or | xor | lui | slt | slti | sltiu | sltu | sll | sra | srl | mfhi | mflo =>
    exact congrArg Host.Outcome.next (finishReg_withCfg ..)
  | noop => rfl
  | andi | ori | xori =>
    have himm (u : State) := logicalImm_of_not_msb u hi
    exact andThen_finishReg_withCfg s c ((himm _).trans (himm s).symm) _ _
  | sllv d t a | srlv d t a =>
    have hlt : (s.reg a).toNat < 32 := by simpa [doubtful] using hi
    have hamount (u : State) := variableAmount_of_lt u hlt
    exact andThen_finishReg_withCfg s c ((hamount _).trans (hamount s).symm) _ _
  | lw => exact andThen_finishReg_withCfg s c (loadAligned_withCfg hc ..) _ _
  | lb => exact execLb_withCfg hc _ _ _ hi
  | sb => exact andThen_advancePc_withCfg c (storeByte_withCfg hc _ hi)
  | sw => exact andThen_advancePc_withCfg c (storeAligned_withCfg hc _ hi)
  | mult | multu => exact absurd hi (by simp [doubtful])
  | div a b =>
    have hdefined : divUndefined (s.reg a) (s.reg b) = false := by simpa [doubtful, divUndefined] using hi
    simp only [exec, execDiv, State.withCfg_reg, hdefined]
    rfl
  | divu a b =>
    have hdefined : divuUndefined (s.reg b) = false := by simpa [doubtful, divuUndefined] using hi
    simp only [exec, execDivu, State.withCfg_reg, hdefined]
    rfl
  | beq | bgez | bgtz | blez | bltz | bne | j | jr =>
    exact controlTransfer_withCfg (by simpa [doubtful] using hi) rfl
  | jal target =>
    simp only [exec, execJal, link_withCfg]
    exact controlTransfer_withCfg (by simpa [doubtful] using hi) rfl
  | bgezal a o =>
    obtain ⟨hnpc, htaken⟩ : s.npc = s.pc + 4 ∧ geZero (s.reg a) = true := by
      simpa [doubtful, branchTaken, geZero] using hi
    simp only [exec, execBgezal, State.withCfg_reg, htaken, branchLink_taken_withCfg]
    exact controlTransfer_withCfg hnpc rfl
  | bltzal a o =>
    obtain ⟨hnpc, htaken⟩ : s.npc = s.pc + 4 ∧ ltZero (s.reg a) = true := by
      simpa [doubtful, branchTaken, ltZero] using hi
    simp only [exec, execBltzal, State.withCfg_reg, htaken, branchLink_taken_withCfg]
    exact controlTransfer_withCfg hnpc rfl
  | syscall => exact execSyscall_withCfg hc

/-- Settles O22: the statement's update of `cfg` is `State.withCfg`. -/
theorem undoubtfulInstructionsDoNotDependOnTheSettings :
    Obligations.UndoubtfulInstructionsDoNotDependOnTheSettings :=
  fun _ _ _ hc hi => exec_withCfg hc hi

end Sys2Proof.Machine
end

section
/-! SUPPORT. What an instruction may change at all, said once for all but SYSCALL (spec/10_state.md R23, R24, R30): the
part of its work before the pair moves is one of five, and registers, HI, LO and memory follow from which. -/

namespace Sys2Proof.Machine

theorem State.setReg_skipDraws (s : State) (n : Nat) (r : Reg) (v : Word) :
    (s.skipDraws n).setReg r v = (s.setReg r v).skipDraws n := by
  unfold State.setReg; split <;> rfl

/-- The four instructions that write HI and LO (R24, R147). -/
abbrev writesHiLo (i : Instr) : Prop :=
  ∃ a b, i = .mult a b ∨ i = .multu a b ∨ i = .div a b ∨ i = .divu a b

/-- `Effect s i u`: `u` is `s` after all that `i` does there but moving the pair. Registers change by the write column
of R23 only, and free values are used up only where one of them may be what is written. -/
inductive Effect (s : State) : Instr → State → Prop
  | nothing {i : Instr} : Effect s i s
  | register {i : Instr} {d : Reg} (hd : destination i = some d) (n : Nat) (v : Word) :
    Effect s i ((s.skipDraws n).setReg d v)
  | hiLo {i : Instr} (hi : writesHiLo i) (n : Nat) (high low : Word) : Effect s i ((s.skipDraws n).setHiLo high low)
  | byte (t : Reg) (o : Half) (b : Reg) :
    Effect s (.sb t o b) (s.putByte (effectiveAddress s b o) ((s.reg t).extractLsb' 0 8))
  | word (t : Reg) (o : Half) (b : Reg) : Effect s (.sw t o b) (s.putWord (effectiveAddress s b o) (s.reg t))

theorem Effect.reg_eq {s u : State} {i : Instr} (h : Effect s i u) {r : Reg} (hr : destination i ≠ some r) :
    u.reg r = s.reg r := by
  cases h with
  | nothing | hiLo | byte | word => rfl
  | @register _ d hd n v =>
    have hne : ¬ (r = d ∧ d ≠ 0) := fun ⟨heq, _⟩ => hr (heq ▸ hd)
    rw [State.reg_setReg, if_neg hne, State.skipDraws_reg]

theorem Effect.hi_lo_eq {s u : State} {i : Instr} (h : Effect s i u) (hi : ¬ writesHiLo i) :
    u.hi = s.hi ∧ u.lo = s.lo := by
  cases h with
  | nothing | byte | word => exact ⟨rfl, rfl⟩
  | register => simp
  | hiLo hwrites => exact absurd hwrites hi

theorem Effect.mem_eq {s u : State} {i : Instr} (h : Effect s i u) (hi : ∀ t o b, i ≠ .sb t o b ∧ i ≠ .sw t o b) :
    u.mem = s.mem := by
  cases h with
  | nothing | hiLo => rfl
  | register => simp
  | byte t o b => exact absurd rfl (hi t o b).1
  | word t o b => exact absurd rfl (hi t o b).2

/-- What a branch and link leaves in `$31` before it moves the pair, taken or not, under every setting of
`LINK_WHEN_NOT_TAKEN` (R123, R127). -/
theorem branchLink_effect {s : State} {i : Instr} (hi : destination i = some 31) (taken : Bool) (o : Half) :
    ∃ u target, Effect s i u ∧ s.branchLink taken o = u.jumpTo target := by
  refine ⟨if taken then s.link else s.linkNotTaken, _, ?_, rfl⟩
  have hlink : Effect s i s.link := .register hi 0 (linkValue s)
  split
  · exact hlink
  · unfold State.linkNotTaken
    split
    · exact .nothing
    · exact hlink
    · exact State.setReg_skipDraws s .. ▸ .register hi 1 _

/-- Every instruction but SYSCALL: what a next state is made of. -/
theorem exec_effect {i : Instr} {s t : State} (hi : i ≠ .syscall) (h : exec i s = .next t) :
    ∃ u target, Effect s i u ∧ t = u.jumpTo target := by
  cases i with
  | add | addi | sub =>
    obtain ⟨-, rfl⟩ := finishSigned_eq_next.1 h
    exact ⟨_, _, .register rfl 0 _, rfl⟩
  | addiu | addu | subu | and | or | xor | lui | slt | slti | sltiu | sltu | sll | sra | srl | mfhi | mflo =>
    obtain rfl := Host.Outcome.next.inj h
    exact ⟨_, _, .register rfl 0 _, rfl⟩
  | andi | ori | xori | sllv | srlv | lw =>
    obtain ⟨m, -, h⟩ := andThen_eq_next.1 h
    obtain rfl := Host.Outcome.next.inj h
    exact ⟨_, _, .register rfl 0 _, rfl⟩
  | lb =>
    obtain ⟨b, -, h⟩ := andThen_eq_next.1 h
    obtain rfl := Host.Outcome.next.inj h
    exact ⟨_, _, .register rfl _ _, rfl⟩
  | sb =>
    obtain ⟨u, hu, h⟩ := andThen_eq_next.1 h
    obtain ⟨-, -, rfl⟩ := storeByte_eq_next.1 hu
    obtain rfl := Host.Outcome.next.inj h
    exact ⟨_, _, .byte .., rfl⟩
  | sw =>
    obtain ⟨u, hu, h⟩ := andThen_eq_next.1 h
    obtain ⟨-, hu⟩ := storeAligned_eq_next.1 hu
    obtain ⟨-, -, rfl⟩ := storeWord_eq_next.1 hu
    obtain rfl := Host.Outcome.next.inj h
    exact ⟨_, _, .word .., rfl⟩
  | mult a b | multu a b =>
    obtain rfl := Host.Outcome.next.inj h
    exact ⟨_, _, .hiLo ⟨a, b, by simp⟩ .., rfl⟩
  | div a b | divu a b =>
    simp only [exec, execDiv, execDivu] at h
    split at h
    · obtain ⟨-, rfl⟩ := finishUndefinedDivision_eq_next.1 h
      exact ⟨_, _, .hiLo ⟨a, b, by simp⟩ .., rfl⟩
    · obtain rfl := Host.Outcome.next.inj h
      exact ⟨_, _, .hiLo ⟨a, b, by simp⟩ 0 _ _, rfl⟩
  | noop =>
    obtain rfl := Host.Outcome.next.inj h
    exact ⟨_, _, .nothing, rfl⟩
  | beq | bgez | bgtz | blez | bltz | bne | j | jr =>
    obtain ⟨-, rfl⟩ := controlTransfer_eq_next.1 h
    exact ⟨_, _, .nothing, rfl⟩
  | bgezal | bltzal =>
    obtain ⟨-, rfl⟩ := controlTransfer_eq_next.1 h
    exact branchLink_effect rfl ..
  | jal =>
    obtain ⟨-, rfl⟩ := controlTransfer_eq_next.1 h
    exact ⟨_, _, .register rfl 0 _, rfl⟩
  | syscall => exact absurd rfl hi

/-- Settles O16: moving the pair changes no register, and the rest of the instruction only its destination. -/
theorem onlyTheDestinationRegisterChanges : Obligations.OnlyTheDestinationRegisterChanges := by
  intro i s t h
  refine ⟨t.reg_zero, fun hi r hr => ?_⟩
  obtain ⟨u, target, heffect, rfl⟩ := exec_effect hi h
  exact heffect.reg_eq hr

/-- Settles O17: of the five effects only that of the four instructions named writes HI or LO. -/
theorem hiAndLoChangeOnlyInMultiplyAndDivide : Obligations.HiAndLoChangeOnlyInMultiplyAndDivide := by
  intro i s t h hi hnot
  obtain ⟨u, target, heffect, rfl⟩ := exec_effect hi h
  refine heffect.hi_lo_eq fun ⟨a, b, hwrites⟩ => ?_
  obtain ⟨hmult, hmultu, hdiv, hdivu⟩ := hnot a b
  rcases hwrites with heq | heq | heq | heq
  exacts [hmult heq, hmultu heq, hdiv heq, hdivu heq]

/-- Settles O18: of the five effects only the two stores' write memory. -/
theorem memoryChangesOnlyInStores : Obligations.MemoryChangesOnlyInStores := by
  intro i s t h hi hnot x
  obtain ⟨u, target, heffect, rfl⟩ := exec_effect hi h
  exact State.byteAt_congr (heffect.mem_eq hnot) x

end Sys2Proof.Machine
end

section
/-! SUPPORT. The machine with another `pc` (spec/10_state.md R25): `pc` is read by the links, the check of
`DELAY_SLOT_CTI`, faults, refusals and the environment, and every next state has lost it to `npc`. -/

namespace Sys2Proof.Machine

/-- The state with another `pc`. -/
def State.withPc (s : State) (p : Word) : State := { s with pc := p }

/-- Where both parts of a step give a value, it is the same value; they may stop each in its own way. -/
structure NextsAgree {α : Type} (r r' : Res α) : Prop where
  eq : ∀ a b, r = .next a → r' = .next b → a = b

theorem NextsAgree.refl {α : Type} (r : Res α) : NextsAgree r r :=
  ⟨fun _ _ ha hb => Host.Outcome.next.inj (ha.symm.trans hb)⟩

theorem NextsAgree.of_eq {α : Type} {a b : α} (h : a = b) : NextsAgree (.next a : Res α) (.next b) :=
  h ▸ .refl _

theorem NextsAgree.andThen {α β : Type} {r r' : Res α} {k k' : α → Res β} (hr : NextsAgree r r')
    (hk : ∀ a, NextsAgree (k a) (k' a)) : NextsAgree (andThen r k) (andThen r' k') := by
  refine ⟨fun x y hx hy => ?_⟩
  obtain ⟨a, ha, hx⟩ := andThen_eq_next.1 hx
  obtain ⟨b, hb, hy⟩ := andThen_eq_next.1 hy
  obtain rfl := hr.eq a b ha hb
  exact (hk a).eq x y hx hy

theorem NextsAgree.ite {α : Type} {c : Prop} [Decidable c] {r r' k k' : Res α} (hr : NextsAgree r r')
    (hk : NextsAgree k k') : NextsAgree (if c then r else k) (if c then r' else k') := by
  split
  · exact hr
  · exact hk

/-! ## Updates of the state -/

theorem setReg_withPc (s : State) (p : Word) (r : Reg) (v : Word) :
    (s.withPc p).setReg r v = (s.setReg r v).withPc p := by
  unfold State.setReg; split <;> rfl

theorem setRegs_withPc (s : State) (p : Word) (l : List (Reg × Word)) :
    (s.withPc p).setRegs l = (s.setRegs l).withPc p := by
  induction l generalizing s with
  | nil => rfl
  | cons x rest ih => rw [State.setRegs, setReg_withPc, ih]; rfl

theorem putBytes_withPc (s : State) (p : Word) (l : List (Word × Byte)) :
    (s.withPc p).putBytes l = (s.putBytes l).withPc p := by
  induction l generalizing s with
  | nil => rfl
  | cons x rest ih =>
    have hmapped : (s.withPc p).mapped x.1 = s.mapped x.1 := rfl
    rw [State.putBytes, State.putBytes, hmapped]
    split
    · exact ih (s.putByte x.1 x.2)
    · exact ih s

/-- Moving the pair at the end puts `npc` in the place of `pc`. -/
theorem finishReg_withPc (s : State) (p : Word) (d : Reg) (v : Word) :
    finishReg (s.withPc p) d v = finishReg s d v := by
  rw [finishReg, setReg_withPc]; rfl

theorem resumeSyscall_withPc (s : State) (p : Word) (c : EnvChange) :
    resumeSyscall (s.withPc p) c = resumeSyscall s c := by
  have happly : (s.withPc p).applyEnv c = (s.applyEnv c).withPc p := by
    rw [State.applyEnv, setRegs_withPc]
    exact putBytes_withPc ((s.setRegs c.regs).setHiLo _ _) p c.mem
  rw [resumeSyscall, happly]; rfl

/-! ## Parts of a step -/

section
variable (s : State) (p : Word)

theorem loadByte_withPc (kind : Access) (a : Word) : NextsAgree (loadByte s kind a) (loadByte (s.withPc p) kind a) := by
  refine ⟨fun b b' hb hb' => ?_⟩
  obtain ⟨-, hb⟩ := loadByte_eq_next.1 hb
  obtain ⟨-, hb'⟩ := loadByte_eq_next.1 hb'
  exact Option.some.inj (hb.symm.trans hb')

theorem loadAligned_withPc (kind : Access) (a : Word) :
    NextsAgree (loadAligned s kind a) (loadAligned (s.withPc p) kind a) := by
  refine ⟨fun v v' hv hv' => ?_⟩
  obtain ⟨-, hv⟩ := loadAligned_eq_next.1 hv
  obtain ⟨-, hv'⟩ := loadAligned_eq_next.1 hv'
  obtain ⟨-, b0, b1, b2, b3, hbytes, rfl⟩ := loadWord_eq_next.1 hv
  have hload : loadWord (s.withPc p) kind a = .next (wordOfBytes s.cfg.byteOrder b0 b1 b2 b3) :=
    loadWord_eq_next.2 ⟨(loadWord_eq_next.1 hv').1, b0, b1, b2, b3, hbytes, rfl⟩
  exact Host.Outcome.next.inj (hload.symm.trans hv')

theorem logicalImm_withPc (imm : Half) : NextsAgree (logicalImm s imm) (logicalImm (s.withPc p) imm) := by
  refine ⟨fun m m' hm hm' => ?_⟩
  have h := logicalImm_cases hm
  have h' := logicalImm_cases hm'
  simp only [State.withPc] at h'
  grind

theorem variableAmount_withPc (v : Word) : NextsAgree (variableAmount s v) (variableAmount (s.withPc p) v) := by
  refine ⟨fun n n' hn hn' => ?_⟩
  have h := variableAmount_cases hn
  have h' := variableAmount_cases hn'
  simp only [State.withPc] at h'
  grind

theorem finishSigned_withPc (d : Reg) (e : Int) : NextsAgree (finishSigned s d e) (finishSigned (s.withPc p) d e) := by
  refine ⟨fun t u ht hu => ?_⟩
  obtain ⟨-, rfl⟩ := finishSigned_eq_next.1 ht
  obtain ⟨-, rfl⟩ := finishSigned_eq_next.1 hu
  exact (finishReg_withPc ..).symm

theorem finishUndefinedDivision_withPc :
    NextsAgree (finishUndefinedDivision s) (finishUndefinedDivision (s.withPc p)) := by
  refine ⟨fun t u ht hu => ?_⟩
  obtain ⟨-, rfl⟩ := finishUndefinedDivision_eq_next.1 ht
  obtain ⟨-, rfl⟩ := finishUndefinedDivision_eq_next.1 hu
  rfl

theorem controlTransfer_withPc {after after' : State} (h : after' = after) :
    NextsAgree (controlTransfer s after) (controlTransfer (s.withPc p) after') := by
  refine ⟨fun t u ht hu => ?_⟩
  obtain ⟨-, rfl⟩ := controlTransfer_eq_next.1 ht
  obtain ⟨-, rfl⟩ := controlTransfer_eq_next.1 hu
  exact h.symm

theorem execSb_withPc (t : Reg) (o : Half) (b : Reg) : NextsAgree (execSb t o b s) (execSb t o b (s.withPc p)) := by
  refine ⟨fun x y hx hy => ?_⟩
  obtain ⟨u, hu, hx⟩ := andThen_eq_next.1 hx
  obtain ⟨u', hu', hy⟩ := andThen_eq_next.1 hy
  obtain ⟨-, -, rfl⟩ := storeByte_eq_next.1 hu
  obtain ⟨-, -, rfl⟩ := storeByte_eq_next.1 hu'
  exact Host.Outcome.next.inj (hx.symm.trans hy)

theorem execSw_withPc (t : Reg) (o : Half) (b : Reg) : NextsAgree (execSw t o b s) (execSw t o b (s.withPc p)) := by
  refine ⟨fun x y hx hy => ?_⟩
  obtain ⟨u, hu, hx⟩ := andThen_eq_next.1 hx
  obtain ⟨u', hu', hy⟩ := andThen_eq_next.1 hy
  obtain ⟨-, -, rfl⟩ := storeWord_eq_next.1 (storeAligned_eq_next.1 hu).2
  obtain ⟨-, -, rfl⟩ := storeWord_eq_next.1 (storeAligned_eq_next.1 hu').2
  exact Host.Outcome.next.inj (hx.symm.trans hy)

theorem execSyscall_withPc (h : (s.withPc p).envAnswer = s.envAnswer) :
    NextsAgree (execSyscall s) (execSyscall (s.withPc p)) := by
  refine ⟨fun t u ht hu => ?_⟩
  obtain ⟨c, hc, rfl⟩ := execSyscall_eq_next.1 ht
  obtain ⟨c', hc', rfl⟩ := execSyscall_eq_next.1 hu
  obtain rfl := EnvAnswer.resume.inj (hc.symm.trans (h.symm.trans hc'))
  exact (resumeSyscall_withPc ..).symm

end

/-! ## All instructions -/

/-- R25: from two states that differ in `pc` only, an instruction that does not link has the same next state, not only
the same registers and memory. -/
theorem exec_withPc {i : Instr} {s : State} {p : Word} (hlink : ∀ a o, i ≠ .bgezal a o ∧ i ≠ .bltzal a o)
    (hjal : ∀ a, i ≠ .jal a) (hanswer : i = .syscall → (s.withPc p).envAnswer = s.envAnswer) :
    NextsAgree (exec i s) (exec i (s.withPc p)) := by
  have hwrite (n : Nat) (d : Reg) (v : Word) :
      NextsAgree (.next (finishReg (s.skipDraws n) d v) : Res State)
        (.next (finishReg ((s.skipDraws n).withPc p) d v)) :=
    .of_eq (finishReg_withPc ..).symm
  cases i with
  | add | addi | sub => exact finishSigned_withPc ..
  | addiu | addu | subu | and | or | xor | lui | slt | slti | sltiu | sltu | sll | sra | srl | mfhi | mflo =>
    exact hwrite 0 _ _
  | andi | ori | xori => exact (logicalImm_withPc ..).andThen fun _ => hwrite 0 _ _
  | sllv | srlv => exact (variableAmount_withPc ..).andThen fun _ => hwrite 0 _ _
  | lw => exact (loadAligned_withPc ..).andThen fun _ => hwrite 0 _ _
  | lb => exact (loadByte_withPc ..).andThen fun _ => hwrite _ _ _
  | sb => exact execSb_withPc ..
  | sw => exact execSw_withPc ..
  | mult | multu | noop => exact .refl _
  | div | divu => exact .ite (finishUndefinedDivision_withPc ..) (.refl _)
  | beq | bgez | bgtz | blez | bltz | bne | j | jr => exact controlTransfer_withPc s p rfl
  | bgezal a o => exact absurd rfl (hlink a o).1
  | bltzal a o => exact absurd rfl (hlink a o).2
  | jal target => exact absurd rfl (hjal target)
  | syscall => exact execSyscall_withPc s p (hanswer rfl)

/-- Settles O23: the two next states are one; the statement's update of `pc` is `State.withPc`. -/
theorem onlyLinksReadTheProgramCounter : Obligations.OnlyLinksReadTheProgramCounter := by
  intro i s t u p hlink hjal hanswer ht hu
  obtain rfl : t = u := (exec_withPc hlink hjal hanswer).eq t u ht hu
  exact ⟨fun _ => rfl, ⟨rfl, rfl⟩, fun _ => rfl, rfl⟩

end Sys2Proof.Machine
end

section
/-! SUPPORT. Memory over instructions and steps (spec/20_memory.md): the memory invariant is kept by every operation
that writes memory (R40, R42, R44, R50), a load gives the word whose bytes lie at its address (R43), and what keeps
addresses multiples of 4 (R47). -/

namespace Sys2Proof.Machine

/-! ## The memory invariant -/

/-- The invariant speaks of memory and the map only. -/
theorem State.Inv.congr {s t : State} (h : s.Inv) (hmem : t.mem = s.mem) (hcfg : t.cfg = s.cfg) : t.Inv := by
  simpa only [State.Inv, hmem, hcfg] using h

theorem State.Inv.putByte {s : State} {a : Word} (h : s.Inv) (ha : s.mapped a = true) (b : Byte) :
    (s.putByte a b).Inv := by
  refine ⟨State.putByte_wf a b h.1, fun c hc => ?_⟩
  rcases Memory.mem_write hc with rfl | hc
  · exact ha
  · exact h.2 c hc

theorem State.mappedWord_iff {s : State} {a : Word} :
    s.mappedWord a = true ↔
      s.mapped a = true ∧ s.mapped (a + 1) = true ∧ s.mapped (a + 2) = true ∧ s.mapped (a + 3) = true := by
  simp [State.mappedWord, and_assoc]

theorem State.mappedWord_congr {s t : State} (h : t.cfg = s.cfg) (a : Word) : t.mappedWord a = s.mappedWord a := by
  simp only [State.mappedWord, State.mapped, h]

theorem State.Inv.putWord {s : State} {a : Word} (h : s.Inv) (ha : s.mappedWord a = true) (v : Word) :
    (s.putWord a v).Inv := by
  obtain ⟨h0, h1, h2, h3⟩ := State.mappedWord_iff.1 ha
  exact (((h.putByte h0 _).putByte h1 _).putByte h2 _).putByte h3 _

/-- The environment's writes keep the invariant: those outside `MEM_MAP` are dropped (R42, log 6). -/
theorem State.Inv.putBytes {s : State} (h : s.Inv) (l : List (Word × Byte)) : (s.putBytes l).Inv := by
  induction l generalizing s with
  | nil => exact h
  | cons c rest ih =>
    refine ih ?_
    split
    next hmapped => exact h.putByte hmapped c.2
    next => exact h

theorem State.Inv.resumeSyscall {s : State} (h : s.Inv) (c : EnvChange) : (resumeSyscall s c).Inv := by
  obtain ⟨-, -, -, -, hmem, hcfg, -⟩ := State.setRegs_keeps s c.regs
  have hregs : ((s.setRegs c.regs).setHiLo (c.hi.getD s.hi) (c.lo.getD s.lo)).Inv := h.congr hmem hcfg
  exact (hregs.putBytes c.mem).congr rfl rfl

/-! ## What the stores do when they go on -/

theorem execSb_eq_next {s u : State} {t b : Reg} {o : Half} :
    execSb t o b s = .next u ↔
      s.mapped (effectiveAddress s b o) = true ∧
      ¬ (s.cfg.textStores = .refuse ∧ s.inText (effectiveAddress s b o) = true) ∧
      u = (s.putByte (effectiveAddress s b o) ((s.reg t).extractLsb' 0 8)).advancePc 4 := by
  refine andThen_eq_next.trans ⟨?_, ?_⟩
  · rintro ⟨u', hu', h⟩
    obtain ⟨hmapped, htext, rfl⟩ := storeByte_eq_next.1 hu'
    exact ⟨hmapped, htext, (Host.Outcome.next.inj h).symm⟩
  · rintro ⟨hmapped, htext, rfl⟩
    exact ⟨_, storeByte_eq_next.2 ⟨hmapped, htext, rfl⟩, rfl⟩

theorem execSw_eq_next {s u : State} {t b : Reg} {o : Half} :
    execSw t o b s = .next u ↔
      isAligned (effectiveAddress s b o) = true ∧ s.mappedWord (effectiveAddress s b o) = true ∧
      ¬ (s.cfg.textStores = .refuse ∧ s.wordInText (effectiveAddress s b o) = true) ∧
      u = (s.putWord (effectiveAddress s b o) (s.reg t)).advancePc 4 := by
  refine andThen_eq_next.trans ⟨?_, ?_⟩
  · rintro ⟨u', hu', h⟩
    obtain ⟨haligned, hstore⟩ := storeAligned_eq_next.1 hu'
    obtain ⟨hmapped, htext, rfl⟩ := storeWord_eq_next.1 hstore
    exact ⟨haligned, hmapped, htext, (Host.Outcome.next.inj h).symm⟩
  · rintro ⟨haligned, hmapped, htext, rfl⟩
    exact ⟨_, storeAligned_eq_next.2 ⟨haligned, storeWord_eq_next.2 ⟨hmapped, htext, rfl⟩⟩, rfl⟩

/-- The instructions after which memory can differ are SB, SW and SYSCALL, and each writes where the map allows. -/
theorem exec_keeps_inv {i : Instr} {s t : State} (hs : s.Inv) (h : exec i s = .next t) : t.Inv := by
  by_cases hwrites : i = .syscall ∨ ∃ r o b, i = .sb r o b ∨ i = .sw r o b
  · rcases hwrites with rfl | ⟨r, o, b, rfl | rfl⟩
    · obtain ⟨c, -, rfl⟩ := execSyscall_eq_next.1 h
      exact hs.resumeSyscall c
    · obtain ⟨hmapped, -, rfl⟩ := execSb_eq_next.1 h
      exact (hs.putByte hmapped _).congr rfl rfl
    · obtain ⟨-, hmapped, -, rfl⟩ := execSw_eq_next.1 h
      exact (hs.putWord hmapped _).congr rfl rfl
  · push Not at hwrites
    obtain ⟨hsyscall, hstores⟩ := hwrites
    obtain ⟨u, target, heffect, rfl⟩ := exec_effect hsyscall h
    exact hs.congr (heffect.mem_eq hstores) (exec_keeps_parameters_and_inputs h).1

/-! ## A word and its four bytes -/

/-- The bytes of four appended ones, most significant first. -/
theorem extract_byte_of_append (b3 b2 b1 b0 : Byte) :
    (b3 ++ b2 ++ b1 ++ b0).extractLsb' 24 8 = b3 ∧ (b3 ++ b2 ++ b1 ++ b0).extractLsb' 16 8 = b2 ∧
    (b3 ++ b2 ++ b1 ++ b0).extractLsb' 8 8 = b1 ∧ (b3 ++ b2 ++ b1 ++ b0).extractLsb' 0 8 = b0 := by
  have hskip {n : Nat} (x : BitVec n) (y : Byte) (k : Nat) : (x ++ y).extractLsb' (k + 8) 8 = x.extractLsb' k 8 := by
    rw [BitVec.extractLsb'_append_eq_of_le (by omega), Nat.add_sub_cancel]
  exact ⟨(hskip _ b0 16).trans ((hskip _ b1 8).trans BitVec.extractLsb'_append_eq_left),
    (hskip _ b0 8).trans ((hskip _ b1 0).trans BitVec.extractLsb'_append_eq_right),
    (hskip _ b0 0).trans BitVec.extractLsb'_append_eq_right, BitVec.extractLsb'_append_eq_right⟩

/-- Each byte of a word put together from four is the one that was put there, in either byte order (R43). -/
theorem byteOfWord_wordOfBytes (order : ByteOrder) (b0 b1 b2 b3 : Byte) :
    byteOfWord order (wordOfBytes order b0 b1 b2 b3) 0 = b0 ∧
    byteOfWord order (wordOfBytes order b0 b1 b2 b3) 1 = b1 ∧
    byteOfWord order (wordOfBytes order b0 b1 b2 b3) 2 = b2 ∧
    byteOfWord order (wordOfBytes order b0 b1 b2 b3) 3 = b3 := by
  cases order with
  | big => exact extract_byte_of_append b0 b1 b2 b3
  | little =>
    obtain ⟨h3, h2, h1, h0⟩ := extract_byte_of_append b3 b2 b1 b0
    exact ⟨h0, h1, h2, h3⟩

/-- The bytes at the four addresses of a word are this word's bytes (R43). -/
def State.wordLiesAt (s : State) (a w : Word) : Prop :=
  ∀ j < 4, s.byteAt (a + BitVec.ofNat 32 j) = some (byteOfWord s.cfg.byteOrder w j)

theorem State.wordLiesAt_iff {s : State} {a w : Word} {order : ByteOrder} (horder : s.cfg.byteOrder = order) :
    s.wordLiesAt a w ↔
      s.bytesAre a (byteOfWord order w 0) (byteOfWord order w 1) (byteOfWord order w 2) (byteOfWord order w 3) := by
  subst horder
  constructor
  · intro h
    simpa using And.intro (h 0 (by decide)) ⟨h 1 (by decide), h 2 (by decide), h 3 (by decide)⟩
  · rintro ⟨h0, h1, h2, h3⟩ j hj
    interval_cases j
    exacts [by simpa using h0, h1, h2, h3]

/-- What lies where depends on memory and the byte order only. -/
theorem State.wordLiesAt.congr {s t : State} {a w : Word} (h : s.wordLiesAt a w) (hmem : t.mem = s.mem)
    (hcfg : t.cfg = s.cfg) : t.wordLiesAt a w := by
  simpa only [State.wordLiesAt, hcfg, State.byteAt_congr hmem] using h

/-- The word put together from the bytes at an address lies there (R43). -/
theorem State.bytesAre.wordLiesAt {s : State} {a : Word} {b0 b1 b2 b3 : Byte} (h : s.bytesAre a b0 b1 b2 b3) :
    s.wordLiesAt a (wordOfBytes s.cfg.byteOrder b0 b1 b2 b3) := by
  obtain ⟨h0, h1, h2, h3⟩ := byteOfWord_wordOfBytes s.cfg.byteOrder b0 b1 b2 b3
  rwa [State.wordLiesAt_iff rfl, h0, h1, h2, h3]

/-- A load gives the word that lies at its address, and no other (R43). -/
theorem loadWord_eq_next_iff_wordLiesAt {s : State} {kind : Access} {a w : Word} :
    loadWord s kind a = .next w ↔ s.mappedWord a = true ∧ s.wordLiesAt a w := by
  rw [loadWord_eq_next]
  refine and_congr_right fun _ => ⟨?_, fun hlies => ?_⟩
  · rintro ⟨b0, b1, b2, b3, hbytes, rfl⟩
    exact State.bytesAre.wordLiesAt hbytes
  · exact ⟨_, _, _, _, (State.wordLiesAt_iff rfl).1 hlies, (wordOfBytes_byteOfWord ..).symm⟩

/-- Where all four bytes hold values, some word lies (R43, R50). -/
theorem State.exists_wordLiesAt {s : State} {a : Word}
    (h : ∀ j < 4, (s.byteAt (a + BitVec.ofNat 32 j)).isSome = true) : ∃ w, s.wordLiesAt a w := by
  obtain ⟨b0, h0⟩ := Option.isSome_iff_exists.1 (h 0 (by decide))
  obtain ⟨b1, h1⟩ := Option.isSome_iff_exists.1 (h 1 (by decide))
  obtain ⟨b2, h2⟩ := Option.isSome_iff_exists.1 (h 2 (by decide))
  obtain ⟨b3, h3⟩ := Option.isSome_iff_exists.1 (h 3 (by decide))
  exact ⟨_, State.bytesAre.wordLiesAt ⟨by simpa using h0, h1, h2, h3⟩⟩

/-- `putWord` puts the word where it says, also where the addresses wrap at 2^32 (R43, R44). -/
theorem State.putWord_wordLiesAt (s : State) (a v : Word) : (s.putWord a v).wordLiesAt a v := by
  refine (State.wordLiesAt_iff rfl).2 ?_
  simp [State.bytesAre, State.byteAt_putWord]

/-- `putWord` leaves every byte outside the word as before (R44). -/
theorem State.byteAt_putWord_of_outside (s : State) {a x : Word} (v : Word)
    (hx : ∀ k < 4, x ≠ a + BitVec.ofNat 32 k) : (s.putWord a v).byteAt x = s.byteAt x := by
  have h0 : x ≠ a := by simpa using hx 0 (by decide)
  have h1 : x ≠ a + 1 := hx 1 (by decide)
  have h2 : x ≠ a + 2 := hx 2 (by decide)
  have h3 : x ≠ a + 3 := hx 3 (by decide)
  simp only [State.byteAt_putWord, h0, h1, h2, h3, if_false]

/-- The four addresses of a word are four. -/
theorem add_ofNat_inj {a : Word} {j k : Nat} (hj : j < 4) (hk : k < 4) :
    a + BitVec.ofNat 32 j = a + BitVec.ofNat 32 k ↔ j = k := by
  rw [BitVec.add_right_inj, ← BitVec.toNat_inj, BitVec.toNat_ofNat, BitVec.toNat_ofNat]
  omega

/-- Behind alignment and map, a fetch gives the word that lies at `pc` (R11, R43). -/
theorem fetch_eq_next_iff_wordLiesAt {s : State} {w : Word} :
    fetch s = .next w ↔ isAligned s.pc = true ∧ s.mappedWord s.pc = true ∧ s.wordLiesAt s.pc w := by
  rw [fetch, loadAligned_eq_next, loadWord_eq_next_iff_wordLiesAt]

/-! ## Stores into `TEXT` -/

theorem storeByte_refused_of_inText {s : State} {a : Word} (b : Byte) (htext : s.cfg.textStores = .refuse)
    (hmapped : s.mapped a = true) (hin : s.inText a = true) : storeByte s a b = .refused (.storeIntoText a s.pc) := by
  rw [storeByte, if_pos hmapped, if_pos ⟨htext, hin⟩]

theorem storeAligned_refused_of_inText {s : State} {a : Word} (v : Word) (htext : s.cfg.textStores = .refuse)
    (haligned : isAligned a = true) (hmapped : s.mappedWord a = true) (hin : s.wordInText a = true) :
    storeAligned s a v = .refused (.storeIntoText a s.pc) := by
  rw [storeAligned, if_pos haligned, storeWord, if_pos hmapped, if_pos ⟨htext, hin⟩]

/-- A word SW stored is what a fetch of its address gives from then on (R55). -/
theorem fetch_after_sw {s u v : State} {t b : Reg} {o : Half} (h : execSw t o b s = .next u) (hmem : v.mem = u.mem)
    (hcfg : v.cfg = u.cfg) (hpc : v.pc = effectiveAddress s b o) : fetch v = .next (s.reg t) := by
  obtain ⟨haligned, hmapped, -, rfl⟩ := execSw_eq_next.1 h
  rw [fetch_eq_next_iff_wordLiesAt, hpc]
  exact ⟨haligned, (State.mappedWord_congr hcfg _).trans hmapped, (State.putWord_wordLiesAt s _ _).congr hmem hcfg⟩

/-- A byte SB stored is seen by a fetch of the word it lies in, beside the word's other bytes (R55). -/
theorem fetch_after_sb {s u v : State} {t b : Reg} {o : Half} {k : Nat} (h : execSb t o b s = .next u)
    (hmem : v.mem = u.mem) (hcfg : v.cfg = u.cfg) (haligned : isAligned v.pc = true)
    (hmapped : v.mappedWord v.pc = true) (hk : k < 4) (haddr : effectiveAddress s b o = v.pc + BitVec.ofNat 32 k)
    (hothers : ∀ j < 4, j ≠ k → (s.byteAt (v.pc + BitVec.ofNat 32 j)).isSome = true) :
    ∃ w, fetch v = .next w ∧ byteOfWord s.cfg.byteOrder w k = (s.reg t).extractLsb' 0 8 ∧
      ∀ j < 4, j ≠ k → s.byteAt (v.pc + BitVec.ofNat 32 j) = some (byteOfWord s.cfg.byteOrder w j) := by
  obtain ⟨-, -, rfl⟩ := execSb_eq_next.1 h
  have hcfg : v.cfg = s.cfg := hcfg
  have hmem : v.mem = (s.putByte (effectiveAddress s b o) ((s.reg t).extractLsb' 0 8)).mem := hmem
  have hbyte : ∀ j < 4, v.byteAt (v.pc + BitVec.ofNat 32 j) =
      if j = k then some ((s.reg t).extractLsb' 0 8) else s.byteAt (v.pc + BitVec.ofNat 32 j) := fun j hj => by
    rw [State.byteAt_congr hmem, State.byteAt_putByte, haddr]
    simp only [add_ofNat_inj hj hk]
  obtain ⟨w, hw⟩ : ∃ w, v.wordLiesAt v.pc w := by
    refine State.exists_wordLiesAt fun j hj => ?_
    rw [hbyte j hj]
    split
    next => rfl
    next hne => exact hothers j hj hne
  refine ⟨w, fetch_eq_next_iff_wordLiesAt.2 ⟨haligned, hmapped, hw⟩, ?_, fun j hj hne => ?_⟩
  · have hwk := hw k hk
    rw [hbyte k hk, if_pos rfl, hcfg] at hwk
    exact (Option.some.inj hwk).symm
  · have hwj := hw j hj
    rwa [hbyte j hj, if_neg hne, hcfg] at hwj

/-! ## Multiples of 4 -/

theorem isAligned_iff {a : Word} : isAligned a = true ↔ a.extractLsb' 0 2 = 0 := by
  simp [isAligned]

theorem isAligned_iff_toNat {a : Word} : isAligned a = true ↔ a.toNat % 4 = 0 := by
  simp [isAligned, ← BitVec.toNat_inj]

theorem isAligned_add {a b : Word} (ha : isAligned a = true) (hb : isAligned b = true) : isAligned (a + b) = true := by
  rw [isAligned_iff_toNat] at *
  rw [BitVec.toNat_add]
  omega

theorem isAligned_shiftLeft_two (a : Word) : isAligned (a <<< 2) = true := by
  rw [isAligned_iff_toNat, BitVec.toNat_shiftLeft, Nat.shiftLeft_eq]
  omega

theorem isAligned_and {a : Word} (m : Word) (ha : isAligned a = true) : isAligned (a &&& m) = true := by
  rw [isAligned_iff] at *
  rw [BitVec.extractLsb'_and, ha]
  exact BitVec.zero_and

theorem isAligned_or {a b : Word} (ha : isAligned a = true) (hb : isAligned b = true) :
    isAligned (a ||| b) = true := by
  rw [isAligned_iff] at *
  rw [BitVec.extractLsb'_or, ha, hb, BitVec.or_self]

/-- J and JAL keep the upper bits of an aligned `npc` and put two zeros below the target field (R84). -/
theorem isAligned_jumpTarget {npc : Word} (target : Target) (h : isAligned npc = true) :
    isAligned (jumpTarget npc target) = true :=
  isAligned_or (isAligned_and _ h) (isAligned_shiftLeft_two _)

/-- R27's table keeps `npc` a multiple of 4 in every row but that of JR. -/
theorem isAligned_npcAfter {s : State} {i : Instr} (hi : ∀ a, i ≠ .jr a) (h : isAligned s.npc = true) :
    isAligned (npcAfter s i) = true := by
  have hrow (taken : Bool) (o : Half) :
      isAligned (if taken then s.npc + (o.signExtend 32 <<< 2) else s.npc + 4) = true := by
    split
    · exact isAligned_add h (isAligned_shiftLeft_two _)
    · exact isAligned_add h rfl
  cases i with
  | jr a => exact absurd rfl (hi a)
  | j target | jal target => exact isAligned_jumpTarget target h
  | _ => exact hrow ..

/-! ## The obligations -/

/-- Settles O11: a step that goes on is an instruction that goes on. -/
theorem stepKeepsTheMemoryInvariant : Obligations.StepKeepsTheMemoryInvariant := by
  intro s t hs h
  obtain ⟨-, i, -, -, hexec⟩ := step_eq_next h
  exact exec_keeps_inv hs hexec

/-- Settles O14: by R27's table `pc` takes the old `npc`, and only JR's row takes a register. -/
theorem onlyJumpRegisterLosesAlignment : Obligations.OnlyJumpRegisterLosesAlignment := by
  rintro i s t hi ⟨-, hnpc⟩ h
  obtain ⟨hpc', hnpc'⟩ := everyInstructionAdvancesThePairAsTabled i s t h
  rw [State.aligned, hpc', hnpc']
  exact ⟨hnpc, isAligned_npcAfter hi hnpc⟩

/-- Settles O24: the stored word lies at its address, and a load gives the word that lies there. -/
theorem storedWordIsReadBackAndItsBytesLieInOrder : Obligations.StoredWordIsReadBackAndItsBytesLieInOrder := by
  intro s t kind a v h
  obtain ⟨hmapped, -, rfl⟩ := storeWord_eq_next.1 h
  have hlies := State.putWord_wordLiesAt s a v
  exact ⟨loadWord_eq_next_iff_wordLiesAt.2 ⟨hmapped, hlies⟩, fun x => s.byteAt_putWord_of_outside v,
    fun hbig => (State.wordLiesAt_iff (s := s.putWord a v) hbig).1 hlies,
    fun hlittle => (State.wordLiesAt_iff (s := s.putWord a v) hlittle).1 hlies⟩

/-- Settles O52: the refusals are tested behind alignment and map; what is stored lies where a fetch reads. -/
theorem storesIntoTextAreSeenByFetchOrRefused : Obligations.StoresIntoTextAreSeenByFetchOrRefused := by
  rintro s t a offset addr (rfl : addr = effectiveAddress s a offset)
  refine ⟨fun htext hmapped hin => ?_, fun htext haligned hmapped hin => ?_, fun u v => fetch_after_sw,
    fun u v k => fetch_after_sb⟩
  · rw [exec, execSb, storeByte_refused_of_inText _ htext hmapped hin, andThen_refused]
  · rw [exec, execSw, storeAligned_refused_of_inText _ htext (isAligned_iff.2 haligned) hmapped hin, andThen_refused]

end Sys2Proof.Machine
end

section
/-! SUPPORT. Decoding over the whole word (spec/30_encoding.md R73 to R79, R87): a mask and match test read field by
field, the decoder against the rows of the opcode table in both directions, and the decoder after the encoder. -/

namespace Sys2Proof

/-! ## A word and its fields (R73) -/

theorem append_fields (w : Word) :
    fieldOp w ++ fieldS w ++ fieldT w ++ fieldD w ++ fieldH w ++ fieldFunct w = w := by
  simp only [fieldOp, fieldS, fieldT, fieldD, fieldH, fieldFunct]
  iterate 5 rw [BitVec.extractLsb'_append_extractLsb'_eq_extractLsb' (by rfl)]
  exact BitVec.extractLsb'_eq_self

/-- The six fields of format R cover the word. -/
theorem eq_iff_fields {w v : Word} :
    w = v ↔ fieldOp w = fieldOp v ∧ fieldS w = fieldS v ∧ fieldT w = fieldT v ∧ fieldD w = fieldD v ∧
      fieldH w = fieldH v ∧ fieldFunct w = fieldFunct v := by
  refine ⟨fun h => by simp [h], fun ⟨hop, hs, ht, hd, hh, hf⟩ => ?_⟩
  rw [← append_fields w, ← append_fields v, hop, hs, ht, hd, hh, hf]

/-- A mask and match test tests each field by itself; the match value has no bit outside the mask. -/
theorem and_mask_eq_iff_fields {w mask bits : Word} (hbits : bits &&& mask = bits) :
    w &&& mask = bits ↔
      fieldOp w &&& fieldOp mask = fieldOp bits &&& fieldOp mask ∧
      fieldS w &&& fieldS mask = fieldS bits &&& fieldS mask ∧
      fieldT w &&& fieldT mask = fieldT bits &&& fieldT mask ∧
      fieldD w &&& fieldD mask = fieldD bits &&& fieldD mask ∧
      fieldH w &&& fieldH mask = fieldH bits &&& fieldH mask ∧
      fieldFunct w &&& fieldFunct mask = fieldFunct bits &&& fieldFunct mask := by
  conv_lhs => rw [← hbits]
  simp only [eq_iff_fields (w := w &&& mask), fieldOp, fieldS, fieldT, fieldD, fieldH, fieldFunct,
    BitVec.extractLsb'_and]

/-! ## The seven masks of the table (R78): which fields a row fixes -/

section Rows
open Laws
variable {w b : Word} {row : OpcodeRow}

/-- ADDI and all rows that fix op alone. -/
theorem matches_op_iff (hrow : row = ⟨0xfc000000#32, b⟩) (hb : b &&& 0xfc000000#32 = b) :
    w &&& row.mask = row.bits ↔ fieldOp w = fieldOp b := by
  rw [hrow, and_mask_eq_iff_fields hb]
  simp [fieldOp, fieldS, fieldT, fieldD, fieldH, fieldFunct, and_all_six]

/-- BGEZ and all rows with a selector in field t, BGTZ and BLEZ among them. -/
theorem matches_selector_iff (hrow : row = ⟨0xfc1f0000#32, b⟩) (hb : b &&& 0xfc1f0000#32 = b) :
    w &&& row.mask = row.bits ↔ fieldOp w = fieldOp b ∧ fieldT w = fieldT b := by
  rw [hrow, and_mask_eq_iff_fields hb]
  simp [fieldOp, fieldS, fieldT, fieldD, fieldH, fieldFunct, and_all_six, and_all_five]

/-- SLL and all rows that fix op and funct alone. -/
theorem matches_funct_iff (hrow : row = ⟨0xfc00003f#32, b⟩) (hb : b &&& 0xfc00003f#32 = b) :
    w &&& row.mask = row.bits ↔ fieldOp w = fieldOp b ∧ fieldFunct w = fieldFunct b := by
  rw [hrow, and_mask_eq_iff_fields hb]
  simp [fieldOp, fieldS, fieldT, fieldD, fieldH, fieldFunct, and_all_six]

/-- ADD and all rows that fix field h too. -/
theorem matches_functH_iff (hrow : row = ⟨0xfc0007ff#32, b⟩) (hb : b &&& 0xfc0007ff#32 = b) :
    w &&& row.mask = row.bits ↔ fieldOp w = fieldOp b ∧ fieldH w = fieldH b ∧ fieldFunct w = fieldFunct b := by
  rw [hrow, and_mask_eq_iff_fields hb]
  simp [fieldOp, fieldS, fieldT, fieldD, fieldH, fieldFunct, and_all_six, and_all_five]

/-- Multiply and divide, which fix the fields d and h. -/
theorem matches_functDH_iff (hrow : row = ⟨0xfc00ffff#32, b⟩) (hb : b &&& 0xfc00ffff#32 = b) :
    w &&& row.mask = row.bits ↔
      fieldOp w = fieldOp b ∧ fieldD w = fieldD b ∧ fieldH w = fieldH b ∧ fieldFunct w = fieldFunct b := by
  rw [hrow, and_mask_eq_iff_fields hb]
  simp [fieldOp, fieldS, fieldT, fieldD, fieldH, fieldFunct, and_all_six, and_all_five]

/-- JR, which leaves only field s free. -/
theorem matches_functTDH_iff (hrow : row = ⟨0xfc1fffff#32, b⟩) (hb : b &&& 0xfc1fffff#32 = b) :
    w &&& row.mask = row.bits ↔
      fieldOp w = fieldOp b ∧ fieldT w = fieldT b ∧ fieldD w = fieldD b ∧ fieldH w = fieldH b ∧
        fieldFunct w = fieldFunct b := by
  rw [hrow, and_mask_eq_iff_fields hb]
  simp [fieldOp, fieldS, fieldT, fieldD, fieldH, fieldFunct, and_all_six, and_all_five]

/-- MFHI and MFLO, which leave only field d free. -/
theorem matches_functSTH_iff (hrow : row = ⟨0xffff07ff#32, b⟩) (hb : b &&& 0xffff07ff#32 = b) :
    w &&& row.mask = row.bits ↔
      fieldOp w = fieldOp b ∧ fieldS w = fieldS b ∧ fieldT w = fieldT b ∧ fieldH w = fieldH b ∧
        fieldFunct w = fieldFunct b := by
  rw [hrow, and_mask_eq_iff_fields hb]
  simp [fieldOp, fieldS, fieldT, fieldD, fieldH, fieldFunct, and_all_six, and_all_five]

end Rows

/-! ## The decoder's tables (R87) -/

theorem requireZero_eq_ok {z : Bool} {i j : Instr} : requireZero z i = .ok j ↔ z = true ∧ i = j := by
  cases z <;> simp [requireZero]

theorem decode_of_special {w : Word} (hop : fieldOp w = 0b000000#6) : decode w = decodeSpecial w := by
  rw [decode, hop]; rfl

theorem decode_of_regimm {w : Word} (hop : fieldOp w = 0b000001#6) : decode w = decodeRegimm w := by
  rw [decode, hop]; rfl

theorem decode_encodeR (s t d : Reg) (h : Shamt) (f : BitVec 6) :
    decode (encodeR s t d h f) = decodeSpecial (encodeR s t d h f) :=
  decode_of_special (fieldOp_encodeR ..)

theorem decode_encodeI_regimm (s t : Reg) (imm : Half) :
    decode (encodeI 0b000001#6 s t imm) = decodeRegimm (encodeI 0b000001#6 s t imm) :=
  decode_of_regimm (fieldOp_encodeI ..)

/-! ## From a row to the decoder -/

theorem map_mnemonic_eq_ok {r : Except DecodeError Instr} {m : Mnemonic} :
    r.map Instr.mnemonic = .ok m ↔ ∃ i, r = .ok i ∧ i.mnemonic = m := by
  cases r <;> simp [Except.map]

/-- The fields a row fixes lead through the decoder's tables to an instruction of that row. -/
theorem decode_of_matches {w : Word} {m : Mnemonic} (hm : m ≠ .noop)
    (h : w &&& (opcodeRow m).mask = (opcodeRow m).bits) : (decode w).map Instr.mnemonic = .ok m := by
  cases m with
  | noop => exact absurd rfl hm
  | addi | addiu | andi | beq | bne | j | jal | lb | lui | lw | ori | sb | slti | sltiu | sw | xori =>
    have hop := (matches_op_iff rfl rfl).1 h
    rw [decode, hop]; rfl
  | blez | bgtz =>
    obtain ⟨hop, ht⟩ := (matches_selector_iff rfl rfl).1 h
    rw [decode, hop, ht]; rfl
  | bgez | bgezal | bltz | bltzal =>
    obtain ⟨hop, ht⟩ := (matches_selector_iff rfl rfl).1 h
    rw [decode_of_regimm hop, decodeRegimm, ht]; rfl
  | sll | srl | sra | sllv | xor | syscall =>
    obtain ⟨hop, hf⟩ := (matches_funct_iff rfl rfl).1 h
    rw [decode_of_special hop, decodeSpecial, hf]; rfl
  | add | addu | and | or | slt | sltu | srlv | sub | subu =>
    obtain ⟨hop, hh, hf⟩ := (matches_functH_iff rfl rfl).1 h
    rw [decode_of_special hop, decodeSpecial, hf, hh]; rfl
  | div | divu | mult | multu =>
    obtain ⟨hop, hd, hh, hf⟩ := (matches_functDH_iff rfl rfl).1 h
    rw [decode_of_special hop, decodeSpecial, hf, hd, hh]; rfl
  | jr =>
    obtain ⟨hop, ht, hd, hh, hf⟩ := (matches_functTDH_iff rfl rfl).1 h
    rw [decode_of_special hop, decodeSpecial, hf, ht, hd, hh]; rfl
  | mfhi | mflo =>
    obtain ⟨hop, hs, ht, hh, hf⟩ := (matches_functSTH_iff rfl rfl).1 h
    rw [decode_of_special hop, decodeSpecial, hf, hs, ht, hh]; rfl

/-! ## From the decoder to a row -/

/-- The funct table, its lines grouped by the zeros they demand. -/
theorem matches_of_decodeSpecial {w : Word} {i : Instr} (hop : fieldOp w = 0b000000#6)
    (h : decodeSpecial w = .ok i) : w &&& (opcodeRow i.mnemonic).mask = (opcodeRow i.mnemonic).bits := by
  unfold decodeSpecial at h
  split at h
  -- no zeros: SLL, SRL, SRA, SLLV, SYSCALL, XOR
  case h_1 hf | h_2 hf | h_3 hf | h_4 hf | h_7 hf | h_20 hf =>
    obtain rfl := Except.ok.inj h
    exact (matches_funct_iff rfl rfl).2 ⟨hop, hf⟩
  -- field h: SRLV, ADD, ADDU, SUB, SUBU, AND, OR, SLT, SLTU
  case h_5 hf | h_14 hf | h_15 hf | h_16 hf | h_17 hf | h_18 hf | h_19 hf | h_21 hf | h_22 hf =>
    obtain ⟨hh, rfl⟩ := requireZero_eq_ok.1 h
    exact (matches_functH_iff rfl rfl).2 ⟨hop, eq_of_beq hh, hf⟩
  -- fields d and h: MULT, MULTU, DIV, DIVU
  case h_10 hf | h_11 hf | h_12 hf | h_13 hf =>
    obtain ⟨hzeros, rfl⟩ := requireZero_eq_ok.1 h
    obtain ⟨hd, hh⟩ : fieldD w = 0 ∧ fieldH w = 0 := by simpa using hzeros
    exact (matches_functDH_iff rfl rfl).2 ⟨hop, hd, hh, hf⟩
  -- fields t, d and h: JR
  case h_6 hf =>
    obtain ⟨hzeros, rfl⟩ := requireZero_eq_ok.1 h
    obtain ⟨⟨ht, hd⟩, hh⟩ : (fieldT w = 0 ∧ fieldD w = 0) ∧ fieldH w = 0 := by simpa using hzeros
    exact (matches_functTDH_iff rfl rfl).2 ⟨hop, ht, hd, hh, hf⟩
  -- fields s, t and h: MFHI, MFLO
  case h_8 hf | h_9 hf =>
    obtain ⟨hzeros, rfl⟩ := requireZero_eq_ok.1 h
    obtain ⟨⟨hs, ht⟩, hh⟩ : (fieldS w = 0 ∧ fieldT w = 0) ∧ fieldH w = 0 := by simpa using hzeros
    exact (matches_functSTH_iff rfl rfl).2 ⟨hop, hs, ht, hh, hf⟩
  case h_23 => exact nomatch h

theorem matches_of_decodeRegimm {w : Word} {i : Instr} (hop : fieldOp w = 0b000001#6)
    (h : decodeRegimm w = .ok i) : w &&& (opcodeRow i.mnemonic).mask = (opcodeRow i.mnemonic).bits := by
  unfold decodeRegimm at h
  split at h
  case h_1 ht | h_2 ht | h_3 ht | h_4 ht =>
    obtain rfl := Except.ok.inj h
    exact (matches_selector_iff rfl rfl).2 ⟨hop, ht⟩
  case h_5 => exact nomatch h

/-- A word that decodes has the fixed bits of its instruction's row. -/
theorem matches_of_decode {w : Word} {i : Instr} (h : decode w = .ok i) :
    w &&& (opcodeRow i.mnemonic).mask = (opcodeRow i.mnemonic).bits := by
  unfold decode at h
  split at h
  case h_1 hop => exact matches_of_decodeSpecial hop h
  case h_2 hop => exact matches_of_decodeRegimm hop h
  -- BLEZ and BGTZ, which demand a zero field t
  case h_7 hop | h_8 hop =>
    obtain ⟨ht, rfl⟩ := requireZero_eq_ok.1 h
    exact (matches_selector_iff rfl rfl).2 ⟨hop, eq_of_beq ht⟩
  case h_21 => exact nomatch h
  all_goals
    rename_i hop
    obtain rfl := Except.ok.inj h
    exact (matches_op_iff rfl rfl).2 hop

/-- The one word of NOOP's row decodes to SLL (C13, R160). -/
theorem mnemonic_ne_noop_of_decode {w : Word} {i : Instr} (h : decode w = .ok i) : i.mnemonic ≠ .noop := by
  intro hnoop
  have hrow : w &&& (opcodeRow .noop).mask = (opcodeRow .noop).bits := hnoop ▸ matches_of_decode h
  obtain rfl : w = 0#32 := BitVec.and_allOnes.symm.trans hrow
  have hsll : decode 0#32 = .ok (.sll 0 0 0) := rfl
  obtain rfl := Except.ok.inj (hsll.symm.trans h)
  exact nomatch hnoop

/-- R78: decoding to an instruction of a row is matching the row. -/
theorem decode_mnemonic_iff_matches {w : Word} {m : Mnemonic} (hm : m ≠ .noop) :
    (∃ i, decode w = .ok i ∧ i.mnemonic = m) ↔ w &&& (opcodeRow m).mask = (opcodeRow m).bits := by
  constructor
  · rintro ⟨i, hi, rfl⟩
    exact matches_of_decode hi
  · exact fun h => map_mnemonic_eq_ok.1 (decode_of_matches hm h)

/-! ## Fields that decoding does not look at (R79, C5, C7) -/

theorem decode_lui_any (x t : Reg) (imm : Half) : decode (encodeI 0b001111#6 x t imm) = .ok (.lui t imm) := by
  rw [decode, fieldOp_encodeI, fieldT_encodeI, fieldImm_encodeI]; rfl

theorem decode_shift_any (x t d : Reg) (h : Shamt) :
    decode (encodeR x t d h 0b000000#6) = .ok (.sll d t h) ∧
    decode (encodeR x t d h 0b000010#6) = .ok (.srl d t h) ∧
    decode (encodeR x t d h 0b000011#6) = .ok (.sra d t h) := by
  refine ⟨?_, ?_, ?_⟩
  all_goals
    rw [decode_encodeR, decodeSpecial, fieldFunct_encodeR, fieldT_encodeR, fieldD_encodeR, fieldH_encodeR]
    rfl

theorem decode_sllv_xor_any (x : Shamt) (s t d : Reg) :
    decode (encodeR s t d x 0b000100#6) = .ok (.sllv d t s) ∧
    decode (encodeR s t d x 0b100110#6) = .ok (.xor d s t) := by
  refine ⟨?_, ?_⟩
  all_goals
    rw [decode_encodeR, decodeSpecial, fieldFunct_encodeR, fieldS_encodeR, fieldT_encodeR, fieldD_encodeR]
    rfl

theorem decode_syscall_any (x : BitVec 20) : decode (0b000000#6 ++ x ++ 0b001100#6) = .ok .syscall := by
  have hop : fieldOp (0b000000#6 ++ x ++ 0b001100#6) = 0b000000#6 := by
    rw [fieldOp, BitVec.extractLsb'_append_eq_of_le (by decide)]
    exact BitVec.extractLsb'_append_eq_left
  have hfunct : fieldFunct (0b000000#6 ++ x ++ 0b001100#6) = 0b001100#6 := BitVec.extractLsb'_append_eq_right
  rw [decode_of_special hop, decodeSpecial, hfunct]; rfl

/-! ## The obligations on decoding -/

/-- Settles O1: the decoder reads back each field of the format that the encoder laid down. -/
theorem decodeOfEncodeIsTheInstruction : Obligations.DecodeOfEncodeIsTheInstruction := by
  intro i hi
  cases i with
  | noop => exact nomatch hi
  | j | jal =>
    rw [encode, decode, fieldOp_encodeJ, fieldTarget_encodeJ]
    rfl
  | addi | addiu | andi | beq | bgtz | blez | bne | lb | lui | lw | ori | sb | slti | sltiu | sw | xori =>
    rw [encode, decode, fieldOp_encodeI, fieldS_encodeI, fieldT_encodeI, fieldImm_encodeI]
    rfl
  | bgez | bgezal | bltz | bltzal =>
    rw [encode, decode_encodeI_regimm, decodeRegimm, fieldS_encodeI, fieldT_encodeI, fieldImm_encodeI]
    rfl
  | add | addu | and | div | divu | jr | mfhi | mflo | mult | multu | or | sll | sllv | slt | sltu | sra | srl | srlv
  | sub | subu | syscall | xor =>
    rw [encode, decode_encodeR, decodeSpecial, fieldFunct_encodeR, fieldS_encodeR, fieldT_encodeR, fieldD_encodeR,
      fieldH_encodeR]
    rfl

/-- Settles O2: a refused word matches no row, since a row's match decodes; a word that matches none does not decode,
since what decodes matches. -/
theorem decodingIsMaskAndMatch : Obligations.DecodingIsMaskAndMatch := by
  intro w
  refine ⟨fun m => decode_mnemonic_iff_matches, ?_, fun hnone => ?_⟩
  · rintro ⟨e, he⟩ m hm hrow
    obtain ⟨i, hi, -⟩ := (decode_mnemonic_iff_matches hm).2 hrow
    exact nomatch he.symm.trans hi
  · cases hdecode : decode w with
    | error e => exact ⟨e, rfl⟩
    | ok i => exact absurd (matches_of_decode hdecode) (hnone _ (mnemonic_ne_noop_of_decode hdecode))

/-- Settles O3: two rows that match one word are both the row of what it decodes to. -/
theorem opcodeRowsAreDisjoint : Obligations.OpcodeRowsAreDisjoint := by
  intro w m m' hm hm' h h'
  obtain ⟨i, hi, rfl⟩ := (decode_mnemonic_iff_matches hm).2 h
  obtain ⟨i', hi', rfl⟩ := (decode_mnemonic_iff_matches hm').2 h'
  exact congrArg Instr.mnemonic (Except.ok.inj (hi.symm.trans hi'))

/-- Settles O4: the words are those of formats R and I, with any value in the fields not looked at. -/
theorem dontCareBitsAreIgnored : Obligations.DontCareBitsAreIgnored :=
  ⟨decode_lui_any, decode_shift_any, decode_sllv_xor_any, decode_syscall_any⟩

/-- Settles O5: fourteen closed words, evaluated. -/
theorem vectorWordsDecodeAsListed : Obligations.VectorWordsDecodeAsListed := by
  unfold Obligations.VectorWordsDecodeAsListed
  decide

end Sys2Proof
end

section
/-! SUPPORT. The assembler (spec/30_encoding.md R90, R91): a field's value is in its operand's range and is read back
from it, an operand in range is the value of the field it gives, and so for whole lines. -/

namespace Sys2Proof

/-! ## A field's value is in range -/

theorem admits_reg_toNat (r : Reg) : OperandKind.reg.admits r.toNat = true := by
  simp only [OperandKind.admits, decide_eq_true_eq]
  omega

theorem admits_shamt_toNat (h : Shamt) : OperandKind.shamt.admits h.toNat = true := admits_reg_toNat h

theorem admits_unsigned16_toNat (imm : Half) : OperandKind.unsigned16.admits imm.toNat = true := by
  simp only [OperandKind.admits, decide_eq_true_eq]
  omega

theorem admits_signed16_toInt (imm : Half) : OperandKind.signed16.admits imm.toInt = true := by
  simp only [OperandKind.admits, decide_eq_true_eq]
  have hlower := imm.le_toInt
  have hupper := imm.toInt_lt
  omega

theorem admits_target_toNat (target : Target) : OperandKind.target.admits target.toNat = true := by
  simp only [OperandKind.admits, decide_eq_true_eq]
  omega

/-! ## A field is read back from its value -/

theorem asmReg_toNat (r : Reg) : asmReg r.toNat = r := by simp [asmReg]
theorem asmHalf_toNat (imm : Half) : asmHalf imm.toNat = imm := by simp [asmHalf]
theorem asmHalf_toInt (imm : Half) : asmHalf imm.toInt = imm := by simp [asmHalf]
theorem asmTarget_toNat (target : Target) : asmTarget target.toNat = target := by simp [asmTarget]

/-! ## An operand in range is the value of its field -/

theorem toNat_asmReg {n : Int} (h : OperandKind.reg.admits n = true) : ((asmReg n).toNat : Int) = n := by
  simp only [OperandKind.admits, decide_eq_true_eq] at h
  rw [asmReg, BitVec.toNat_ofInt]
  omega

theorem toNat_asmHalf {n : Int} (h : OperandKind.unsigned16.admits n = true) : ((asmHalf n).toNat : Int) = n := by
  simp only [OperandKind.admits, decide_eq_true_eq] at h
  rw [asmHalf, BitVec.toNat_ofInt]
  omega

theorem toInt_asmHalf {n : Int} (h : OperandKind.signed16.admits n = true) : (asmHalf n).toInt = n := by
  simp only [OperandKind.admits, decide_eq_true_eq] at h
  rw [asmHalf, BitVec.toInt_ofInt, Int.bmod_eq_of_le] <;> omega

theorem toNat_asmTarget {n : Int} (h : OperandKind.target.admits n = true) : ((asmTarget n).toNat : Int) = n := by
  simp only [OperandKind.admits, decide_eq_true_eq] at h
  rw [asmTarget, BitVec.toNat_ofInt]
  omega

/-! ## The operands of an accepted line -/

theorem eq_nil_of_operandsAdmitted {ns : List Int} (h : operandsAdmitted [] ns = true) : ns = [] := by
  cases ns with
  | nil => rfl
  | cons => exact nomatch h

theorem eq_cons_of_operandsAdmitted {k : OperandKind} {ks : List OperandKind} {ns : List Int}
    (h : operandsAdmitted (k :: ks) ns = true) :
    ∃ n rest, ns = n :: rest ∧ k.admits n = true ∧ operandsAdmitted ks rest = true := by
  cases ns with
  | nil => exact nomatch h
  | cons n rest => exact ⟨n, rest, rfl, by simpa [operandsAdmitted] using h⟩

theorem eq_one_of_operandsAdmitted {k : OperandKind} {ns : List Int} (h : operandsAdmitted [k] ns = true) :
    ∃ a, ns = [a] ∧ k.admits a = true := by
  obtain ⟨a, rest, rfl, ha, h⟩ := eq_cons_of_operandsAdmitted h
  obtain rfl := eq_nil_of_operandsAdmitted h
  exact ⟨a, rfl, ha⟩

theorem eq_two_of_operandsAdmitted {k l : OperandKind} {ns : List Int} (h : operandsAdmitted [k, l] ns = true) :
    ∃ a b, ns = [a, b] ∧ k.admits a = true ∧ l.admits b = true := by
  obtain ⟨a, rest, rfl, ha, h⟩ := eq_cons_of_operandsAdmitted h
  obtain ⟨b, rfl, hb⟩ := eq_one_of_operandsAdmitted h
  exact ⟨a, b, rfl, ha, hb⟩

theorem eq_three_of_operandsAdmitted {k l m : OperandKind} {ns : List Int}
    (h : operandsAdmitted [k, l, m] ns = true) :
    ∃ a b c, ns = [a, b, c] ∧ k.admits a = true ∧ l.admits b = true ∧ m.admits c = true := by
  obtain ⟨a, rest, rfl, ha, h⟩ := eq_cons_of_operandsAdmitted h
  obtain ⟨b, c, rfl, hb, hc⟩ := eq_two_of_operandsAdmitted h
  exact ⟨a, b, c, rfl, ha, hb, hc⟩

/-! ## From an instruction to its line and back -/

/-- The line of an instruction has the operands its mnemonic asks for, each in its range. -/
theorem operands_admitted (i : Instr) : operandsAdmitted i.mnemonic.shape i.operands = true := by
  cases i with
  | noop | syscall => rfl
  | j target | jal target =>
    simp [Instr.mnemonic, Instr.operands, Mnemonic.shape, operandsAdmitted, admits_target_toNat]
  | _ =>
    simp [Instr.mnemonic, Instr.operands, Mnemonic.shape, operandsAdmitted, admits_reg_toNat, admits_shamt_toNat,
      admits_unsigned16_toNat, admits_signed16_toInt]

/-- Assembling an instruction's operands reads each field back; the cases go by the kinds of the fields. -/
theorem assembleOperands_operands (i : Instr) : assembleOperands i.mnemonic i.operands = some i := by
  rw [Instr.mnemonic.eq_def, Instr.operands.eq_def]
  cases i with
  | noop | syscall => rfl
  | j | jal => simp only [assembleOperands, asm1, asmTarget_toNat]
  | jr | mfhi | mflo => simp only [assembleOperands, asm1, asmReg_toNat]
  | div | divu | mult | multu => simp only [assembleOperands, asm2, asmReg_toNat]
  | add | addu | and | or | sll | sllv | slt | sltu | sra | srl | srlv | sub | subu | xor =>
    simp only [assembleOperands, asm3, asmReg_toNat]
  | lui => simp only [assembleOperands, asm2, asmReg_toNat, asmHalf_toNat]
  | andi | ori | xori => simp only [assembleOperands, asm3, asmReg_toNat, asmHalf_toNat]
  | bgez | bgezal | bgtz | blez | bltz | bltzal => simp only [assembleOperands, asm2, asmReg_toNat, asmHalf_toInt]
  | addi | addiu | beq | bne | slti | sltiu | lb | lw | sb | sw =>
    simp only [assembleOperands, asm3, asmReg_toNat, asmHalf_toInt]

/-- Operands in range give an instruction whose line they are; the cases go by the shapes of R90. -/
theorem assembleOperands_of_admitted {m : Mnemonic} {ns : List Int} (h : operandsAdmitted m.shape ns = true) :
    ∃ i, assembleOperands m ns = some i ∧ disassemble i = ⟨m, ns⟩ := by
  cases m with
  | noop | syscall =>
    obtain rfl := eq_nil_of_operandsAdmitted h
    exact ⟨_, rfl, rfl⟩
  | j | jal =>
    obtain ⟨a, rfl, ha⟩ := eq_one_of_operandsAdmitted h
    exact ⟨_, rfl, by simp only [disassemble, Instr.mnemonic, Instr.operands, toNat_asmTarget ha]⟩
  | jr | mfhi | mflo =>
    obtain ⟨a, rfl, ha⟩ := eq_one_of_operandsAdmitted h
    exact ⟨_, rfl, by simp only [disassemble, Instr.mnemonic, Instr.operands, toNat_asmReg ha]⟩
  | div | divu | mult | multu =>
    obtain ⟨a, b, rfl, ha, hb⟩ := eq_two_of_operandsAdmitted h
    exact ⟨_, rfl, by simp only [disassemble, Instr.mnemonic, Instr.operands, toNat_asmReg ha, toNat_asmReg hb]⟩
  | lui =>
    obtain ⟨a, b, rfl, ha, hb⟩ := eq_two_of_operandsAdmitted h
    exact ⟨_, rfl, by simp only [disassemble, Instr.mnemonic, Instr.operands, toNat_asmReg ha, toNat_asmHalf hb]⟩
  | bgez | bgezal | bgtz | blez | bltz | bltzal =>
    obtain ⟨a, b, rfl, ha, hb⟩ := eq_two_of_operandsAdmitted h
    exact ⟨_, rfl, by simp only [disassemble, Instr.mnemonic, Instr.operands, toNat_asmReg ha, toInt_asmHalf hb]⟩
  | add | addu | and | or | sll | sllv | slt | sltu | sra | srl | srlv | sub | subu | xor =>
    obtain ⟨a, b, c, rfl, ha, hb, hc⟩ := eq_three_of_operandsAdmitted h
    exact ⟨_, rfl, by
      simp only [disassemble, Instr.mnemonic, Instr.operands, toNat_asmReg ha, toNat_asmReg hb, toNat_asmReg hc]⟩
  | andi | ori | xori =>
    obtain ⟨a, b, c, rfl, ha, hb, hc⟩ := eq_three_of_operandsAdmitted h
    exact ⟨_, rfl, by
      simp only [disassemble, Instr.mnemonic, Instr.operands, toNat_asmReg ha, toNat_asmReg hb, toNat_asmHalf hc]⟩
  | addi | addiu | beq | bne | slti | sltiu =>
    obtain ⟨a, b, c, rfl, ha, hb, hc⟩ := eq_three_of_operandsAdmitted h
    exact ⟨_, rfl, by
      simp only [disassemble, Instr.mnemonic, Instr.operands, toNat_asmReg ha, toNat_asmReg hb, toInt_asmHalf hc]⟩
  | lb | lw | sb | sw =>
    obtain ⟨a, b, c, rfl, ha, hb, hc⟩ := eq_three_of_operandsAdmitted h
    exact ⟨_, rfl, by
      simp only [disassemble, Instr.mnemonic, Instr.operands, toNat_asmReg ha, toInt_asmHalf hb, toNat_asmReg hc]⟩

/-! ## The obligations on the assembler -/

/-- Settles O6: an instruction's line is accepted, and its fields are read back. -/
theorem assembleOfDisassembleIsTheInstruction : Obligations.AssembleOfDisassembleIsTheInstruction := by
  intro i
  have haccepted : (disassemble i).wellFormed = true := operands_admitted i
  rw [assemble, if_pos haccepted]
  exact assembleOperands_operands i

/-- Settles O7: a line in range gives an instruction with that line, any other gives none. -/
theorem assemblerKeepsOperandsAndRefusesTheRest : Obligations.AssemblerKeepsOperandsAndRefusesTheRest := by
  intro l
  by_cases hl : l.wellFormed = true
  · obtain ⟨i, hi, hline⟩ := assembleOperands_of_admitted hl
    rw [assemble, if_pos hl, hi, hl]
    exact ⟨rfl, fun j hj => Option.some.inj hj ▸ hline⟩
  · rw [assemble, if_neg hl, Bool.eq_false_of_not_eq_true hl]
    exact ⟨rfl, fun j hj => nomatch hj⟩

end Sys2Proof
end

section
/-! SUPPORT. Operand forms as fields put together (spec/30_encoding.md R84, R86), and the outcomes that the claims name,
for the operations an instruction ends with. -/

namespace Sys2Proof.Machine

/-! ## The operands of LUI, J and JAL -/

theorem luiImm_eq_append (imm : Half) : luiImm imm = imm ++ 0#16 := by
  have happend : (imm ++ 0#16).setWidth 32 = imm.setWidth 32 <<< 16 ||| (0#16).setWidth 32 :=
    BitVec.setWidth_append_eq_shiftLeft_setWidth_or
  simpa [luiImm, zext] using happend.symm

/-- The mask of R84 keeps bits 31:28. -/
theorem and_region_eq_append (a : Word) : a &&& 0xF0000000#32 = a.extractLsb' 28 4 ++ 0#28 := by
  calc a &&& 0xF0000000#32
    _ = a.extractLsb' 28 4 ++ a.extractLsb' 0 28 &&& 15#4 ++ 0#28 := by
      rw [BitVec.extractLsb'_append_extractLsb'_eq_extractLsb' (by rfl), BitVec.extractLsb'_eq_self]
      rfl
    _ = (a.extractLsb' 28 4 &&& 15#4) ++ (a.extractLsb' 0 28 &&& 0#28) := BitVec.and_append
    _ = a.extractLsb' 28 4 ++ 0#28 := congrArg₂ _ BitVec.and_allOnes BitVec.and_zero

theorem jumpTarget_eq_append (npc : Word) (target : Target) :
    jumpTarget npc target = npc.extractLsb' 28 4 ++ target ++ 0b00#2 := by
  have happend : (npc.extractLsb' 28 4 ++ target ++ 0#2).setWidth 32 =
      (npc.extractLsb' 28 4).setWidth 32 <<< 28 ||| target.setWidth 32 <<< 2 ||| (0#2).setWidth 32 :=
    BitVec.setWidth_append_append_eq_shiftLeft_setWidth_or
  have hregion : (npc.extractLsb' 28 4 ++ 0#28).setWidth 32 =
      (npc.extractLsb' 28 4).setWidth 32 <<< 28 ||| (0#28).setWidth 32 :=
    BitVec.setWidth_append_eq_shiftLeft_setWidth_or
  simp only [BitVec.setWidth_eq, BitVec.setWidth_zero, BitVec.or_zero] at happend hregion
  rw [jumpTarget, and_region_eq_append, hregion, happend]

/-! ## Outcomes -/

theorem finishReg_writesRegister (s : State) (d : Reg) (v : Word) :
    WritesRegister s (.next (finishReg s d v)) d v :=
  ⟨_, rfl, fun r => finishReg_reg s d r v, ⟨finishReg_hi s d v, finishReg_lo s d v⟩,
    State.byteAt_congr (finishReg_mem s d v), ⟨finishReg_cfg s d v, finishReg_env s d v, finishReg_draws s d v⟩,
    finishReg_pc s d v, finishReg_npc s d v⟩

theorem jumpTo_movesPair (s : State) (a : Word) : MovesPair s (.next (s.jumpTo a)) a :=
  ⟨_, rfl, fun _ => rfl, ⟨rfl, rfl⟩, fun _ => rfl, ⟨rfl, rfl, rfl⟩, rfl, rfl⟩

theorem link_jumpTo_linksAndMoves (s : State) (a : Word) :
    LinksAndMoves s (.next (s.link.jumpTo a)) (s.pc + 8) a :=
  ⟨_, rfl, fun r => State.reg_setReg s 31 r (linkValue s), ⟨State.setReg_hi .., State.setReg_lo ..⟩,
    State.byteAt_congr (State.setReg_mem s 31 (linkValue s)),
    ⟨State.link_cfg s, State.link_env s, State.link_draws s⟩, State.link_npc s, rfl⟩

/-- Where branches and jumps execute, `DELAY_SLOT_CTI` declines none (R133). -/
theorem controlTransfer_of_transfersAllowed {s : State} (h : s.transfersAllowed) (after : State) :
    controlTransfer s after = .next after := by
  refine controlTransfer_eq_next.2 ⟨?_, rfl⟩
  rintro ⟨hrefuse, hslot⟩
  rcases h with hfollow | hnpc
  · exact nomatch hfollow.symm.trans hrefuse
  · exact hslot hnpc

/-! ## The obligations on the operand forms -/

/-- Settles O31: LUI is a register write of its operand, which is the field above 16 zeros. -/
theorem loadUpperImmediateWritesTheUpperHalf : Obligations.LoadUpperImmediateWritesTheUpperHalf := by
  intro s t imm
  rw [← luiImm_eq_append]
  exact finishReg_writesRegister s t (luiImm imm)

/-- Settles O36: outside a refused delay slot J and JAL only jump, JAL after its link. -/
theorem jumpsGoToTheTargetInTheDelaySlotsRegion : Obligations.JumpsGoToTheTargetInTheDelaySlotsRegion := by
  intro s target h
  rw [← jumpTarget_eq_append, exec, exec, execJ, execJal, controlTransfer_of_transfersAllowed h,
    controlTransfer_of_transfersAllowed h]
  exact ⟨jumpTo_movesPair .., link_jumpTo_linksAndMoves ..⟩

end Sys2Proof.Machine
end

section
/-! SUPPORT. Add and subtract (spec/40_arithmetic.md): where the exact signed result fits, what the signed forms end
with on each side of that line, and the 32-bit result and its sign beside the exact one. -/

namespace Sys2Proof.Machine

/-! ## Syntax and Encoding lines -/

/-- Every term a word can stand for has the form of its own line, its own word and its own row (R78, R87, R91). -/
theorem isForm_self {i : Instr} (hi : i.wellFormed = true) :
    IsForm i i.mnemonic i.operands (encode i) (opcodeRow i.mnemonic).mask (opcodeRow i.mnemonic).bits :=
  ⟨assembleOfDisassembleIsTheInstruction i, rfl, decodeOfEncodeIsTheInstruction i hi, rfl⟩

/-! ## Signed overflow of an exact result (R100) -/

theorem signedOverflow_eq_false_iff {e : Int} : signedOverflow e = false ↔ -2 ^ 31 ≤ e ∧ e ≤ 2 ^ 31 - 1 := by
  simp only [signedOverflow, Bool.or_eq_false_iff, decide_eq_false_iff_not]
  omega

theorem signedOverflow_eq_true_iff {e : Int} : signedOverflow e = true ↔ ¬ (-2 ^ 31 ≤ e ∧ e ≤ 2 ^ 31 - 1) := by
  rw [← signedOverflow_eq_false_iff, Bool.not_eq_false]

theorem signedOverflow_toInt_add (a b : Word) : signedOverflow (a.toInt + b.toInt) = a.saddOverflow b := by
  rw [Bool.eq_iff_iff]
  simp only [signedOverflow, BitVec.saddOverflow, Bool.or_eq_true, decide_eq_true_eq]
  omega

theorem signedOverflow_toInt_sub (a b : Word) : signedOverflow (a.toInt - b.toInt) = a.ssubOverflow b := by
  rw [Bool.eq_iff_iff]
  simp only [signedOverflow, BitVec.ssubOverflow, Bool.or_eq_true, decide_eq_true_eq]
  omega

/-- A sum overflows when the operands have one sign and the 32-bit sum the other. -/
theorem signedOverflow_add_iff_msb (a b : Word) :
    signedOverflow (a.toInt + b.toInt) = true ↔ a.msb = b.msb ∧ (a + b).msb ≠ a.msb := by
  rw [signedOverflow_toInt_add, BitVec.saddOverflow_eq]
  simp

/-- A difference overflows when the signs differ and the 32-bit difference has the sign of the subtrahend. -/
theorem signedOverflow_sub_iff_msb (a b : Word) :
    signedOverflow (a.toInt - b.toInt) = true ↔ a.msb ≠ b.msb ∧ (a - b).msb = b.msb := by
  rw [signedOverflow_toInt_sub, BitVec.ssubOverflow_eq]
  cases a.msb <;> cases b.msb <;> simp

/-! ## The exact result modulo 2^32 -/

theorem ofInt_toInt_add (a b : Word) : BitVec.ofInt 32 (a.toInt + b.toInt) = a + b := by
  rw [BitVec.ofInt_add, BitVec.ofInt_toInt, BitVec.ofInt_toInt]

theorem ofInt_toInt_sub (a b : Word) : BitVec.ofInt 32 (a.toInt - b.toInt) = a - b := by
  rw [Int.sub_eq_add_neg, BitVec.ofInt_add, BitVec.ofInt_neg, BitVec.ofInt_toInt, BitVec.ofInt_toInt,
    ← BitVec.sub_eq_add_neg]

/-- Sign extension keeps the number an immediate stands for (R80). -/
theorem toInt_sext (imm : Half) : (sext imm).toInt = imm.toInt :=
  BitVec.toInt_signExtend_of_le (by decide)

/-! ## The end of the signed forms -/

theorem finishSigned_eq_overflow {s : State} {d : Reg} {e : Int} :
    finishSigned s d e = .fault (.overflow s.pc) ↔ signedOverflow e = true := by
  rw [finishSigned_eq_fault, and_iff_left rfl]

/-- Where no Overflow is raised, the exact result modulo 2^32 is written. -/
theorem finishSigned_of_ne_overflow {s : State} {d : Reg} {e : Int}
    (h : finishSigned s d e ≠ .fault (.overflow s.pc)) :
    finishSigned s d e = .next (finishReg s d (BitVec.ofInt 32 e)) :=
  finishSigned_eq_next.2 ⟨Bool.eq_false_of_not_eq_true (mt finishSigned_eq_overflow.2 h), rfl⟩

theorem finishSigned_writesRegister (s : State) (d : Reg) {e : Int} (h : -2 ^ 31 ≤ e ∧ e ≤ 2 ^ 31 - 1) :
    WritesRegister s (finishSigned s d e) d (BitVec.ofInt 32 e) := by
  rw [finishSigned_eq_next.2 ⟨signedOverflow_eq_false_iff.2 h, rfl⟩]
  exact finishReg_writesRegister s d _

theorem finishSigned_overflows (s : State) (d : Reg) {e : Int} (h : ¬ (-2 ^ 31 ≤ e ∧ e ≤ 2 ^ 31 - 1)) :
    finishSigned s d e = .fault (.overflow s.pc) :=
  finishSigned_eq_overflow.2 (signedOverflow_eq_true_iff.2 h)

/-! ## The obligations on add and subtract -/

/-- Settles O26: the three signed forms end in `finishSigned` of their exact result, ADDI's immediate read as the
signed number of its field. -/
theorem signedAddAndSubtractWriteOrTrap : Obligations.SignedAddAndSubtractWriteOrTrap := by
  refine ⟨fun s d a b => ?add, fun s t a imm => ?addi, fun s d a b => ?sub⟩
  case add => exact ⟨finishSigned_writesRegister s d, finishSigned_overflows s d, isForm_self rfl⟩
  case addi =>
    rw [exec, execAddi, toInt_sext]
    exact ⟨finishSigned_writesRegister s t, finishSigned_overflows s t⟩
  case sub => exact ⟨finishSigned_writesRegister s d, finishSigned_overflows s d, isForm_self rfl⟩

/-- Settles O27: Overflow is raised exactly on signed overflow of the exact result, which the sign bits show. -/
theorem signedOverflowByTheSignBits : Obligations.SignedOverflowByTheSignBits := fun s _ a b =>
  ⟨finishSigned_eq_overflow.trans (signedOverflow_add_iff_msb (s.reg a) (s.reg b)),
    finishSigned_eq_overflow.trans (signedOverflow_sub_iff_msb (s.reg a) (s.reg b))⟩

/-- Settles O28: a signed form that does not trap writes its exact result modulo 2^32, which is the unsigned form's
result. -/
theorem signedFormsAgreeWithUnsignedFormsUnlessTheyTrap :
    Obligations.SignedFormsAgreeWithUnsignedFormsUnlessTheyTrap := by
  refine fun s d a b imm => ⟨fun h => ?add, fun h => ?sub, fun h => ?addi⟩
  case add => exact (finishSigned_of_ne_overflow h).trans (by rw [ofInt_toInt_add]; rfl)
  case sub => exact (finishSigned_of_ne_overflow h).trans (by rw [ofInt_toInt_sub]; rfl)
  case addi => exact (finishSigned_of_ne_overflow h).trans (by rw [ofInt_toInt_add]; rfl)

/-- Settles O25: the unsigned forms are register writes of the wrapped result, and nothing stops them. -/
theorem unsignedAddAndSubtractWriteTheWrappedResult : Obligations.UnsignedAddAndSubtractWriteTheWrappedResult :=
  ⟨fun s t _ _ => finishReg_writesRegister s t _,
    fun s d _ _ => ⟨finishReg_writesRegister s d _, isForm_self rfl⟩,
    fun s d _ _ => ⟨finishReg_writesRegister s d _, isForm_self rfl⟩⟩

end Sys2Proof.Machine
end

section
/-! SUPPORT. Bitwise logic (spec/41_logical.md): the immediate under each setting of LOGICAL_IMM_EXT, and what ANDI, ORI
and XORI end with when it is there and when it is refused. -/

namespace Sys2Proof.Machine

/-! ## The immediate under each setting (R81, D6, U10) -/

theorem logicalImm_of_zero {s : State} (imm : Half) (h : s.cfg.logicalImmExt = .zero) :
    logicalImm s imm = .next (zext imm) := by
  rw [logicalImm, h]

theorem logicalImm_of_sign {s : State} (imm : Half) (h : s.cfg.logicalImmExt = .sign) :
    logicalImm s imm = .next (sext imm) := by
  rw [logicalImm, h]

theorem logicalImm_of_refuse_msb {s : State} {imm : Half} (h : s.cfg.logicalImmExt = .refuse) (hmsb : imm.msb = true) :
    logicalImm s imm = .refused (.logicalImmediateSign s.pc) := by
  simp only [logicalImm, h, hmsb, if_true]

/-! ## ANDI, ORI and XORI by what their immediate is -/

/-- The immediate is all that can stop these three: given it, each is a register write. -/
theorem immediateLogic_writesRegister {s : State} {imm : Half} {m : Word} (h : logicalImm s imm = .next m) (t a : Reg) :
    WritesRegister s (exec (.andi t a imm) s) t (s.reg a &&& m) ∧
    WritesRegister s (exec (.ori t a imm) s) t (s.reg a ||| m) ∧
    WritesRegister s (exec (.xori t a imm) s) t (s.reg a ^^^ m) := by
  simp only [exec, execAndi, execOri, execXori, h, andThen_next]
  exact ⟨finishReg_writesRegister .., finishReg_writesRegister .., finishReg_writesRegister ..⟩

theorem immediateLogic_refused {s : State} {imm : Half} {x : Refusal} (h : logicalImm s imm = .refused x) (t a : Reg) :
    exec (.andi t a imm) s = .refused x ∧ exec (.ori t a imm) s = .refused x ∧
    exec (.xori t a imm) s = .refused x := by
  simp only [exec, execAndi, execOri, execXori, h, andThen_refused, and_self]

/-! ## The obligations on bitwise logic -/

/-- Settles O29: the three are register writes of their result, and nothing stops them. -/
theorem registerLogicWritesTheBitwiseResult : Obligations.RegisterLogicWritesTheBitwiseResult := fun s d _ _ =>
  ⟨⟨finishReg_writesRegister s d _, isForm_self rfl⟩, ⟨finishReg_writesRegister s d _, isForm_self rfl⟩,
    finishReg_writesRegister s d _⟩

/-- Settles O30: the setting decides the immediate, and the immediate decides how the three end; bit 15 is its sign. -/
theorem immediateLogicUnderEachSetting : Obligations.ImmediateLogicUnderEachSetting := by
  intro s t a imm
  rw [← show imm.msb = imm.getLsbD 15 from BitVec.msb_eq_getLsbD_last imm]
  refine ⟨?zero, fun hsign => ?sign, fun hrefuse hset => ?refuse⟩
  case zero =>
    rintro (hzero | ⟨-, hclear⟩)
    · exact immediateLogic_writesRegister (logicalImm_of_zero imm hzero) t a
    · exact immediateLogic_writesRegister (logicalImm_of_not_msb s hclear) t a
  case sign => exact immediateLogic_writesRegister (logicalImm_of_sign imm hsign) t a
  case refuse => exact immediateLogic_refused (logicalImm_of_refuse_msb hrefuse hset) t a

end Sys2Proof.Machine
end

section
/-! SUPPORT. Branches and jumps (spec/42_branch_jump.md): a followed branch by its condition, `$31` when a branch and
link does not branch, the one reason DELAY_SLOT_CTI gives, and the instruction in the delay slot. -/

namespace Sys2Proof.Machine

/-! ## Conditions on the signed number (R120) -/

theorem geZero_eq_true_iff {v : Word} : geZero v = true ↔ 0 ≤ v.toInt := decide_eq_true_iff
theorem geZero_eq_false_iff {v : Word} : geZero v = false ↔ v.toInt < 0 := by simp [geZero]
theorem gtZero_eq_true_iff {v : Word} : gtZero v = true ↔ 0 < v.toInt := decide_eq_true_iff
theorem gtZero_eq_false_iff {v : Word} : gtZero v = false ↔ v.toInt ≤ 0 := by simp [gtZero]
theorem leZero_eq_true_iff {v : Word} : leZero v = true ↔ v.toInt ≤ 0 := decide_eq_true_iff
theorem leZero_eq_false_iff {v : Word} : leZero v = false ↔ 0 < v.toInt := by simp [leZero]
theorem ltZero_eq_true_iff {v : Word} : ltZero v = true ↔ v.toInt < 0 := decide_eq_true_iff
theorem ltZero_eq_false_iff {v : Word} : ltZero v = false ↔ 0 ≤ v.toInt := by simp [ltZero]

/-! ## Branches that are followed (R120, R133) -/

section Followed

variable {s : State} {taken : Bool} (h : s.transfersAllowed) (o : Half)
include h

theorem branch_movesPair_of_taken (htaken : taken = true) :
    MovesPair s (controlTransfer s (s.branch taken o)) (s.npc + (o.signExtend 32 <<< 2)) := by
  rw [controlTransfer_of_transfersAllowed h, htaken]
  exact jumpTo_movesPair ..

theorem branch_movesPair_of_not_taken (htaken : taken = false) :
    MovesPair s (controlTransfer s (s.branch taken o)) (s.npc + 4) := by
  rw [controlTransfer_of_transfersAllowed h, htaken]
  exact jumpTo_movesPair ..

/-- A taken branch and link is a link and then a jump (R123, R127). -/
theorem branchLink_linksAndMoves_of_taken (htaken : taken = true) :
    LinksAndMoves s (controlTransfer s (s.branchLink taken o)) (s.pc + 8) (s.npc + (o.signExtend 32 <<< 2)) := by
  rw [controlTransfer_of_transfersAllowed h, htaken]
  exact link_jumpTo_linksAndMoves ..

/-- One that is not taken leaves `$31` to `LINK_WHEN_NOT_TAKEN` and goes on. -/
theorem branchLink_of_not_taken (htaken : taken = false) :
    controlTransfer s (s.branchLink taken o) = .next (s.linkNotTaken.jumpTo (s.npc + 4)) := by
  rw [controlTransfer_of_transfersAllowed h, htaken, ← State.linkNotTaken_npc s]
  rfl

end Followed

/-! ## `$31` when a branch and link does not branch (D29, U12) -/

theorem State.linkNotTaken_of_no {s : State} (h : s.cfg.linkWhenNotTaken = .no) : s.linkNotTaken = s := by
  rw [State.linkNotTaken, h]

theorem State.linkNotTaken_of_yes {s : State} (h : s.cfg.linkWhenNotTaken = .yes) : s.linkNotTaken = s.link := by
  rw [State.linkNotTaken, h]

theorem State.linkNotTaken_of_draw {s : State} (h : s.cfg.linkWhenNotTaken = .draw) :
    s.linkNotTaken = (s.setReg 31 (s.anyOf (s.reg 31) (linkValue s))).skipDraws 1 := by
  rw [State.linkNotTaken, h]

@[simp] theorem State.linkNotTaken_hi (s : State) : s.linkNotTaken.hi = s.hi := by
  unfold State.linkNotTaken; split <;> simp [State.link]
@[simp] theorem State.linkNotTaken_lo (s : State) : s.linkNotTaken.lo = s.lo := by
  unfold State.linkNotTaken; split <;> simp [State.link]
@[simp] theorem State.linkNotTaken_mem (s : State) : s.linkNotTaken.mem = s.mem := by
  unfold State.linkNotTaken; split <;> simp [State.link]

theorem State.anyOf_eq_or (s : State) (a b : Word) : s.anyOf a b = a ∨ s.anyOf a b = b :=
  ite_eq_or_eq ..

/-- A register given the value it has is no change. -/
theorem State.reg_setReg_self (s : State) (d r : Reg) : (s.setReg d (s.reg d)).reg r = s.reg r := by
  rw [State.reg_setReg, ite_eq_right_iff]
  rintro ⟨rfl, -⟩
  rfl

/-- Under the cautious setting `$31` is linked or as before, whichever value the choice falls on. -/
theorem State.linkNotTaken_regs_of_draw {s : State} (h : s.cfg.linkWhenNotTaken = .draw) :
    regWritten s s.linkNotTaken 31 (s.pc + 8) ∨ sameRegs s s.linkNotTaken := by
  rw [State.linkNotTaken_of_draw h]
  rcases s.anyOf_eq_or (s.reg 31) (linkValue s) with hold | hlink
  · rw [hold]
    exact .inr (s.reg_setReg_self 31)
  · rw [hlink]
    exact .inl fun r => s.reg_setReg 31 r (linkValue s)

/-! ## The encoding of JR (R74, R87) -/

/-- The three fields JR leaves 0 are one field of 15 zeros. -/
theorem encodeR_zero_fields (x : Reg) (f : BitVec 6) :
    encodeR x 0 0 0 f = 0b000000#6 ++ x ++ 0b000000000000000#15 ++ f := by
  apply BitVec.eq_of_getLsbD_eq
  intro i hi
  simp only [encodeR, BitVec.getLsbD_append]
  grind

/-! ## The reasons of refusals other than R133's -/

theorem logicalImm_refused_reason {s : State} {imm : Half} {x : Refusal} (h : logicalImm s imm = .refused x) :
    x = .logicalImmediateSign s.pc := by
  unfold logicalImm at h; split at h <;> grind

theorem variableAmount_refused_reason {s : State} {v : Word} {x : Refusal} (h : variableAmount s v = .refused x) :
    x = .shiftAmount s.pc := by
  unfold variableAmount at h; split at h <;> grind

theorem finishUndefinedDivision_refused_reason {s : State} {x : Refusal}
    (h : finishUndefinedDivision s = .refused x) : x = .undefinedDivision s.pc := by
  unfold finishUndefinedDivision at h; split at h <;> grind

theorem storeByte_refused_reason {s : State} {a : Word} {b : Byte} {x : Refusal} (h : storeByte s a b = .refused x) :
    x = .storeIntoText a s.pc := by
  unfold storeByte at h; split at h <;> grind [trap]

theorem storeAligned_refused_reason {s : State} {a v : Word} {x : Refusal} (h : storeAligned s a v = .refused x) :
    x = .storeIntoText a s.pc := by
  unfold storeAligned storeWord at h; split at h <;> grind [trap]

/-- DELAY_SLOT_CTI refuses none but the eleven branches and jumps (R133): the others are refused for other reasons. -/
theorem isControlTransfer_of_exec_refused {i : Instr} {s : State} {p : Word}
    (h : exec i s = .refused (.controlTransferInDelaySlot p)) : isControlTransfer i = true := by
  cases i with
  | beq | bgez | bgezal | bgtz | blez | bltz | bltzal | bne | j | jal | jr => rfl
  | add | addi | sub => exact absurd h finishSigned_ne_refused
  | addiu | addu | subu | and | or | xor | lui | slt | slti | sltiu | sltu | sll | sra | srl | mfhi | mflo | mult
  | multu | noop => exact nomatch h
  | andi | ori | xori => exact nomatch logicalImm_refused_reason (refused_of_andThen_next h)
  | sllv | srlv => exact nomatch variableAmount_refused_reason (refused_of_andThen_next h)
  | lb => exact absurd (refused_of_andThen_next h) loadByte_ne_refused
  | lw => exact absurd (refused_of_andThen_next h) loadAligned_ne_refused
  | sb => exact nomatch storeByte_refused_reason (refused_of_andThen_next h)
  | sw => exact nomatch storeAligned_refused_reason (refused_of_andThen_next h)
  | div | divu =>
    simp only [exec, execDiv, execDivu] at h
    split at h
    · exact nomatch finishUndefinedDivision_refused_reason h
    · exact nomatch h
  | syscall => exact absurd h execSyscall_ne_refused

/-! ## Branches and jumps in a delay slot, and what follows one -/

theorem controlTransfer_refused {s : State} (hcfg : s.cfg.delaySlotCti = .refuse) (hslot : s.npc ≠ s.pc + 4)
    (after : State) : controlTransfer s after = .refused (.controlTransferInDelaySlot s.pc) :=
  if_pos ⟨hcfg, hslot⟩

/-- The last row of R27's table: what is no branch and no jump goes on to N + 4. -/
theorem npcAfter_of_not_controlTransfer {i : Instr} (hi : isControlTransfer i = false) (s : State) :
    npcAfter s i = s.npc + 4 := by
  cases i with
  | beq | bgez | bgezal | bgtz | blez | bltz | bltzal | bne | j | jal | jr => exact nomatch hi
  | _ => rfl

/-! ## The obligations on branches and jumps -/

/-- Settles O38: each of the eleven ends in `controlTransfer`, and nothing else gives its reason. -/
theorem transfersInADelaySlotAreRefusedUnderThatSetting :
    Obligations.TransfersInADelaySlotAreRefusedUnderThatSetting := by
  refine fun i s hcfg hslot => ⟨fun hi => ?_, isControlTransfer_of_exec_refused⟩
  cases i with
  | beq | bgez | bgezal | bgtz | blez | bltz | bltzal | bne | j | jal | jr =>
    exact controlTransfer_refused hcfg hslot _
  | _ => exact nomatch hi

/-- Settles O39: R27's table twice; the slot's row moves the first one's `npc` into `pc`. -/
theorem theDelaySlotRunsBeforeTheTarget : Obligations.TheDelaySlotRunsBeforeTheTarget := by
  intro i k s t u _ hk ht hu
  obtain ⟨htpc, htnpc⟩ := everyInstructionAdvancesThePairAsTabled i s t ht
  obtain ⟨hupc, hunpc⟩ := everyInstructionAdvancesThePairAsTabled k t u hu
  rw [npcAfter_of_not_controlTransfer hk] at hunpc
  exact ⟨htpc, hupc.trans htnpc, hunpc.trans (congrArg (· + 4) htnpc)⟩

/-- Settles O32: both are followed branches, on equal registers one is taken and the other is not. -/
theorem equalityBranchesMoveThePair : Obligations.EqualityBranchesMoveThePair := by
  refine fun s a b offset => ⟨isForm_self rfl, isForm_self rfl, fun h heq => ?equal, fun h hne => ?different⟩
  case equal =>
    exact ⟨branch_movesPair_of_taken h offset (beq_iff_eq.2 heq),
      branch_movesPair_of_not_taken h offset (bne_eq_false_iff_eq.2 heq)⟩
  case different =>
    exact ⟨branch_movesPair_of_not_taken h offset (beq_eq_false_iff_ne.2 hne),
      branch_movesPair_of_taken h offset (bne_iff_ne.2 hne)⟩

/-- Settles O33: the four are followed branches, and BGEZ and BLTZ, BGTZ and BLEZ have opposite conditions. -/
theorem signBranchesMoveThePair : Obligations.SignBranchesMoveThePair := by
  refine fun s a offset => ⟨isForm_self rfl, isForm_self rfl, isForm_self rfl, isForm_self rfl,
    fun h hge => ?ge, fun h hlt => ?lt, fun h hgt => ?gt, fun h hle => ?le⟩
  case ge =>
    exact ⟨branch_movesPair_of_taken h offset (geZero_eq_true_iff.2 hge),
      branch_movesPair_of_not_taken h offset (ltZero_eq_false_iff.2 hge)⟩
  case lt =>
    exact ⟨branch_movesPair_of_not_taken h offset (geZero_eq_false_iff.2 hlt),
      branch_movesPair_of_taken h offset (ltZero_eq_true_iff.2 hlt)⟩
  case gt =>
    exact ⟨branch_movesPair_of_taken h offset (gtZero_eq_true_iff.2 hgt),
      branch_movesPair_of_not_taken h offset (leZero_eq_false_iff.2 hgt)⟩
  case le =>
    exact ⟨branch_movesPair_of_not_taken h offset (gtZero_eq_false_iff.2 hle),
      branch_movesPair_of_taken h offset (leZero_eq_true_iff.2 hle)⟩

/-- Settles O34: the condition is read from the state before the link, also where the register is `$31`. -/
theorem takenBranchAndLinkWritesTheReturnAddress : Obligations.TakenBranchAndLinkWritesTheReturnAddress :=
  fun _ _ offset h =>
    ⟨fun hge => branchLink_linksAndMoves_of_taken h offset (geZero_eq_true_iff.2 hge),
      fun hlt => branchLink_linksAndMoves_of_taken h offset (ltZero_eq_true_iff.2 hlt)⟩

/-- Settles O35: neither branches, and the setting decides `linkNotTaken`. -/
theorem notTakenBranchAndLinkUnderEachSetting : Obligations.NotTakenBranchAndLinkUnderEachSetting := by
  intro s a offset i h hi
  have hexec : exec i s = .next (s.linkNotTaken.jumpTo (s.npc + 4)) := by
    rcases hi with ⟨rfl, hlt⟩ | ⟨rfl, hge⟩
    · exact branchLink_of_not_taken h offset (geZero_eq_false_iff.2 hlt)
    · exact branchLink_of_not_taken h offset (ltZero_eq_false_iff.2 hge)
  rw [hexec]
  refine ⟨fun hno => ?no, fun hyes => ?yes, fun hdraw => ?draw⟩
  case no =>
    rw [State.linkNotTaken_of_no hno]
    exact jumpTo_movesPair ..
  case yes =>
    rw [State.linkNotTaken_of_yes hyes]
    exact link_jumpTo_linksAndMoves ..
  case draw =>
    exact ⟨_, rfl, State.linkNotTaken_regs_of_draw hdraw, ⟨s.linkNotTaken_hi, s.linkNotTaken_lo⟩,
      State.byteAt_congr s.linkNotTaken_mem, ⟨s.linkNotTaken_npc, rfl⟩, s.linkNotTaken_cfg, s.linkNotTaken_env⟩

/-- Settles O37: JR is a followed jump to the register, with no condition on the value. -/
theorem jumpRegisterGoesToTheRegister : Obligations.JumpRegisterGoesToTheRegister := by
  refine fun s a => ⟨fun h => ?moves, ?form⟩
  case moves =>
    rw [exec, execJr, controlTransfer_of_transfersAllowed h]
    exact jumpTo_movesPair ..
  case form =>
    rw [← encodeR_zero_fields]
    exact isForm_self rfl

end Sys2Proof.Machine
end

section
/-! SUPPORT. Multiply, divide, HI and LO (spec/43_muldiv.md): the end of an instruction that writes HI and LO, the low
word of the two products, and the quotient and remainder as numbers. -/

namespace Sys2Proof.Machine

/-! ## Outcomes -/

theorem finishHiLo_writesHiLo (s : State) (hi lo : Word) : WritesHiLo s (.next (finishHiLo s hi lo)) hi lo :=
  ⟨_, rfl, rfl, rfl, fun _ => rfl, fun _ => rfl, ⟨rfl, rfl, rfl⟩, rfl, rfl⟩

/-- Where free values are used up for HI or LO (log 8): all but HI, LO and the count of free values. -/
theorem finishHiLo_skipDraws_keeps (s : State) (n : Nat) (hi lo : Word) :
    sameRegs s (finishHiLo (s.skipDraws n) hi lo) ∧ sameMemory s (finishHiLo (s.skipDraws n) hi lo) ∧
    pairIs s (finishHiLo (s.skipDraws n) hi lo) (s.npc + 4) ∧ (finishHiLo (s.skipDraws n) hi lo).cfg = s.cfg ∧
    (finishHiLo (s.skipDraws n) hi lo).env = s.env :=
  ⟨fun _ => rfl, fun _ => rfl, ⟨rfl, rfl⟩, rfl, rfl⟩

/-! ## The product under each setting of MULT_HI (R145, D9) -/

theorem finishProduct_of_highWord {s : State} (h : s.cfg.multHi = .highWord) (p : BitVec 64) :
    finishProduct s p = finishHiLo s (p.extractLsb' 32 32) (p.extractLsb' 0 32) := by
  simp only [finishProduct, productHigh, productHighDraws, h]
  rfl

theorem finishProduct_of_unchanged {s : State} (h : s.cfg.multHi = .unchanged) (p : BitVec 64) :
    finishProduct s p = finishHiLo s s.hi (p.extractLsb' 0 32) := by
  simp only [finishProduct, productHigh, productHighDraws, h]
  rfl

/-! ## The low word of the product (R145, R146) -/

theorem low_ofInt (e : Int) : (BitVec.ofInt 64 e).extractLsb' 0 32 = BitVec.ofInt 32 e := by
  rw [← BitVec.setWidth_eq_extractLsb' (by decide)]
  apply BitVec.eq_of_toNat_eq
  rw [BitVec.toNat_setWidth, BitVec.toNat_ofInt, BitVec.toNat_ofInt]
  omega

theorem low_ofNat (n : Nat) : (BitVec.ofNat 64 n).extractLsb' 0 32 = BitVec.ofNat 32 n := by
  rw [← BitVec.setWidth_eq_extractLsb' (by decide), BitVec.setWidth_ofNat_of_le (by decide)]

/-- The sign of the operands does not reach the low word: it is their product modulo 2^32. -/
theorem low_signedProduct (x y : Word) : (BitVec.ofInt 64 (x.toInt * y.toInt)).extractLsb' 0 32 = x * y := by
  rw [low_ofInt, BitVec.ofInt_mul, BitVec.ofInt_toInt, BitVec.ofInt_toInt]

theorem low_unsignedProduct (x y : Word) : (BitVec.ofNat 64 (x.toNat * y.toNat)).extractLsb' 0 32 = x * y := by
  rw [low_ofNat, BitVec.ofNat_mul, BitVec.ofNat_toNat, BitVec.ofNat_toNat, BitVec.setWidth_eq, BitVec.setWidth_eq]

/-! ## Which divisions have no result (R141, R142, D11, D12) -/

theorem divUndefined_eq_true_iff {x y : Word} :
    divUndefined x y = true ↔ y = 0 ∨ (x = 0x80000000#32 ∧ y = 0xFFFFFFFF#32) := by
  simp [divUndefined]

theorem divuUndefined_eq_true_iff {y : Word} : divuUndefined y = true ↔ y = 0 := beq_iff_eq

theorem finishUndefinedDivision_of_refuse {s : State} (h : s.cfg.divUndefined = .refuse) :
    finishUndefinedDivision s = .refused (.undefinedDivision s.pc) := by
  rw [finishUndefinedDivision, h]

/-! ## The quotient and the remainder as signed numbers (R141, D10) -/

/-- -2^31 by -1 is the one division by a divisor other than 0 whose quotient is no signed 32-bit number. -/
theorem toInt_quotient {x y : Word} (h : ¬ (x = 0x80000000#32 ∧ y = 0xFFFFFFFF#32)) :
    (BitVec.ofInt 32 (x.toInt.tdiv y.toInt)).toInt = x.toInt.tdiv y.toInt := by
  rw [← BitVec.toInt_sdiv_of_ne_or_ne x y (not_and_or.1 h), BitVec.ofInt_toInt]

theorem toInt_remainder (x y : Word) : (BitVec.ofInt 32 (x.toInt.tmod y.toInt)).toInt = x.toInt.tmod y.toInt := by
  rw [← BitVec.toInt_srem, BitVec.ofInt_toInt]

theorem natAbs_tmod_lt (x : Int) {y : Int} (hy : y ≠ 0) : (x.tmod y).natAbs < y.natAbs := by
  rw [Int.natAbs_tmod]
  exact Nat.mod_lt _ (Int.natAbs_pos.2 hy)

theorem tmod_eq_zero_or_neg_iff (x y : Int) : x.tmod y = 0 ∨ (x.tmod y < 0 ↔ x < 0) := by
  have hsign := Int.sign_tmod x y
  split at hsign
  · exact .inl (Int.sign_eq_zero_iff_zero.1 hsign)
  · exact .inr (by rw [← Int.sign_eq_neg_one_iff_neg, hsign, Int.sign_eq_neg_one_iff_neg])

/-! ## The obligations on multiply, divide, HI and LO -/

/-- Settles O42: outside the two divisions without a result DIV ends in writing HI and LO. -/
theorem divideWritesQuotientAndRemainder : Obligations.DivideWritesQuotientAndRemainder := by
  intro s a b hb hoverflow
  have hdefined : ¬ divUndefined (s.reg a) (s.reg b) = true :=
    mt divUndefined_eq_true_iff.1 (not_or.2 ⟨hb, hoverflow⟩)
  rw [exec, execDiv, if_neg hdefined]
  exact finishHiLo_writesHiLo ..

/-- Settles O44: HI and LO hold the remainder and the quotient as numbers, and truncating division has the three
properties. -/
theorem divideSatisfiesTheDivisionIdentity : Obligations.DivideSatisfiesTheDivisionIdentity := by
  intro s t a b hb hoverflow h
  obtain ⟨u, hu, hhi, hlo, -⟩ := divideWritesQuotientAndRemainder s a b hb hoverflow
  obtain rfl := Host.Outcome.next.inj (h.symm.trans hu)
  have hdivisor : (s.reg b).toInt ≠ 0 := BitVec.toInt_ne.2 hb
  rw [hhi, hlo, toInt_quotient hoverflow, toInt_remainder]
  exact ⟨(Int.tdiv_mul_add_tmod ..).symm, natAbs_tmod_lt _ hdivisor, tmod_eq_zero_or_neg_iff ..⟩

/-- Settles O43: for a divisor other than 0 DIVU ends in writing HI and LO. -/
theorem unsignedDivideWritesQuotientAndRemainder : Obligations.UnsignedDivideWritesQuotientAndRemainder := by
  intro s a b hb
  rw [exec, execDivu, if_neg (mt divuUndefined_eq_true_iff.1 hb)]
  exact finishHiLo_writesHiLo ..

/-- Settles O45: the three divisions end alike, and `DIV_UNDEFINED` says how. -/
theorem undefinedDivisionsRunOnWithFreeResults : Obligations.UndefinedDivisionsRunOnWithFreeResults := by
  intro s a b i hi
  have hexec : exec i s = finishUndefinedDivision s := by
    rcases hi with ⟨rfl, hdiv⟩ | ⟨rfl, hdivu⟩
    · exact if_pos (divUndefined_eq_true_iff.2 hdiv)
    · exact if_pos (divuUndefined_eq_true_iff.2 hdivu)
  rw [hexec]
  exact ⟨fun hany => ⟨_, finishUndefinedDivision_eq_next.2 ⟨hany, rfl⟩, finishHiLo_skipDraws_keeps ..⟩,
    finishUndefinedDivision_of_refuse⟩

/-- Settles O40: both end in `finishProduct` of their product, and the setting of MULT_HI decides HI. -/
theorem multiplyWritesTheProduct : Obligations.MultiplyWritesTheProduct := by
  intro s a b i p hi
  have hexec : exec i s = .next (finishProduct s p) := by
    rcases hi with ⟨rfl, rfl⟩ | ⟨rfl, rfl⟩ <;> rfl
  rw [hexec]
  refine ⟨fun hhigh => ?high, fun hsame => ?same, fun _ => ?any⟩
  case high =>
    rw [finishProduct_of_highWord hhigh]
    exact finishHiLo_writesHiLo ..
  case same =>
    rw [finishProduct_of_unchanged hsame]
    exact finishHiLo_writesHiLo ..
  case any => exact ⟨_, rfl, rfl, finishHiLo_skipDraws_keeps ..⟩

/-- Settles O41: the low word of either product is the product modulo 2^32. -/
theorem signedAndUnsignedMultiplyLeaveTheSameLow : Obligations.SignedAndUnsignedMultiplyLeaveTheSameLow := by
  intro s t u a b ht hu
  obtain rfl := Host.Outcome.next.inj ht
  obtain rfl := Host.Outcome.next.inj hu
  exact (low_signedProduct ..).trans (low_unsignedProduct ..).symm

/-- Settles O46: both are register writes, and the two fields they leave 0 below `op` are one field of 10 zeros. -/
theorem movesFromHiAndLoCopy : Obligations.MovesFromHiAndLoCopy := fun s d =>
  ⟨⟨finishReg_writesRegister s d s.hi, isForm_self rfl⟩, ⟨finishReg_writesRegister s d s.lo, isForm_self rfl⟩⟩

end Sys2Proof.Machine
end

section
/-! SUPPORT. Loads and stores (spec/44_load_store.md): the register value LB makes of its byte, what each of the four
does where nothing stops it, and what is as before after a store. -/

namespace Sys2Proof.Machine

/-! ## The byte LB extends (R151, D7, U9) -/

theorem extendByte_of_sign {s : State} (h : s.cfg.lbExt = .sign) (b : Byte) : extendByte s b = b.signExtend 32 := by
  rw [extendByte, h]

theorem extendByte_of_zero {s : State} (h : s.cfg.lbExt = .zero) (b : Byte) : extendByte s b = b.zeroExtend 32 := by
  rw [extendByte, h]

/-- No setting leaves a third reading. -/
theorem extendByte_eq_or (s : State) (b : Byte) :
    extendByte s b = b.signExtend 32 ∨ extendByte s b = b.zeroExtend 32 := by
  cases h : s.cfg.lbExt with
  | sign => exact .inl (extendByte_of_sign h b)
  | zero => exact .inr (extendByte_of_zero h b)
  | draw =>
    rw [extendByte, h]
    exact s.anyOf_eq_or ..

/-- Only the cautious setting uses up free values (log 8, log 10). -/
theorem extendByteDraws_of_ne_draw {s : State} (h : s.cfg.lbExt ≠ .draw) (b : Byte) : extendByteDraws s b = 0 := by
  unfold extendByteDraws
  split
  next => rfl
  next => rfl
  next hdraw => exact absurd hdraw h

/-! ## LB and LW where nothing stops them -/

theorem execLb_of_byteAt {s : State} {t a : Reg} {offset : Half} {b : Byte}
    (hmapped : s.mapped (effectiveAddress s a offset) = true)
    (hbyte : s.byteAt (effectiveAddress s a offset) = some b) :
    execLb t offset a s = .next (finishReg (s.skipDraws (extendByteDraws s b)) t (extendByte s b)) := by
  rw [execLb, loadByte_eq_next.2 ⟨hmapped, hbyte⟩, andThen_next]

/-- Under a setting that decides the reading, LB is a register write. -/
theorem execLb_writesRegister {s : State} {t a : Reg} {offset : Half} {b : Byte} (hdecided : s.cfg.lbExt ≠ .draw)
    (hmapped : s.mapped (effectiveAddress s a offset) = true)
    (hbyte : s.byteAt (effectiveAddress s a offset) = some b) :
    WritesRegister s (execLb t offset a s) t (extendByte s b) := by
  rw [execLb_of_byteAt hmapped hbyte, extendByteDraws_of_ne_draw hdecided]
  exact finishReg_writesRegister ..

theorem execLw_of_bytesAre {s : State} {t a : Reg} {offset : Half} {b0 b1 b2 b3 : Byte}
    (haligned : isAligned (effectiveAddress s a offset) = true)
    (hmapped : s.mappedWord (effectiveAddress s a offset) = true)
    (hbytes : s.bytesAre (effectiveAddress s a offset) b0 b1 b2 b3) :
    execLw t offset a s = .next (finishReg s t (wordOfBytes s.cfg.byteOrder b0 b1 b2 b3)) := by
  have hload : loadWord s .load (effectiveAddress s a offset) = .next (wordOfBytes s.cfg.byteOrder b0 b1 b2 b3) :=
    loadWord_eq_next.2 ⟨hmapped, b0, b1, b2, b3, hbytes, rfl⟩
  rw [execLw, loadAligned_eq_next.2 ⟨haligned, hload⟩, andThen_next]

/-! ## SB and SW where nothing stops them -/

/-- A store is let through when `TEXT` is not protected or not reached (R55). -/
theorem not_refused_of_seen_or_outside {s : State} {reached : Bool}
    (h : s.cfg.textStores = .seen ∨ reached = false) : ¬ (s.cfg.textStores = .refuse ∧ reached = true) := by
  rintro ⟨hrefuse, hreached⟩
  rcases h with hseen | houtside
  · exact nomatch hseen.symm.trans hrefuse
  · exact nomatch houtside.symm.trans hreached

/-- `putByte` leaves every other byte as before (R44). -/
theorem State.putByte_sameMemoryBut (s : State) (a : Word) (b : Byte) : sameMemoryBut s (s.putByte a b) a 1 := by
  intro x hx
  have hne : x ≠ a := by simpa using hx 0 (by decide)
  rw [State.byteAt_putByte, if_neg hne]

/-- Outside `MEM_MAP` SB traps before anything else is looked at (R42, R153). -/
theorem execSb_busError {s : State} {a : Reg} {offset : Half} (t : Reg)
    (h : s.mapped (effectiveAddress s a offset) = false) :
    execSb t offset a s = .fault (.busError .store (effectiveAddress s a offset) s.pc) :=
  andThen_eq_fault.2 (.inl (storeByte_eq_fault.2 ⟨h, rfl⟩))

/-! ## The obligations on loads and stores -/

/-- Settles O47: LB writes `extendByte` of the byte, which two settings decide; the cautious one leaves the two readings
and uses up free values. -/
theorem loadByteWritesTheExtendedByte : Obligations.LoadByteWritesTheExtendedByte := by
  intro s t a offset b hmapped hbyte
  refine ⟨fun hsign => ?sign, fun hzero => ?zero, fun _ => ?draw⟩
  case sign =>
    rw [← extendByte_of_sign hsign]
    exact execLb_writesRegister (by simp [hsign]) hmapped hbyte
  case zero =>
    rw [← extendByte_of_zero hzero]
    exact execLb_writesRegister (by simp [hzero]) hmapped hbyte
  case draw =>
    obtain ⟨u, hu, hregs, hhilo, hmem, ⟨hcfg, henv, -⟩, hpair⟩ :=
      finishReg_writesRegister (s.skipDraws (extendByteDraws s b)) t (extendByte s b)
    refine ⟨u, (execLb_of_byteAt hmapped hbyte).trans hu, ?_, hhilo, hmem, hpair, hcfg, henv⟩
    rcases extendByte_eq_or s b with hsign | hzero
    · exact .inl (hsign ▸ hregs)
    · exact .inr (hzero ▸ hregs)

/-- Settles O48: LW is a register write of the word put together from the four bytes. -/
theorem loadWordWritesTheAssembledWord : Obligations.LoadWordWritesTheAssembledWord := by
  rintro s t a offset addr b0 b1 b2 b3 (rfl : addr = effectiveAddress s a offset) haligned hmapped h0 h1 h2 h3
  have hwrites : WritesRegister s (exec (.lw t offset a) s) t (wordOfBytes s.cfg.byteOrder b0 b1 b2 b3) := by
    rw [exec, execLw_of_bytesAre (isAligned_iff.2 haligned) hmapped ⟨h0, h1, h2, h3⟩]
    exact finishReg_writesRegister ..
  refine ⟨fun hbig => ?big, fun hlittle => ?little⟩
  case big => rwa [hbig] at hwrites
  case little => rwa [hlittle] at hwrites

/-- Settles O49: SB goes on to `putByte` of the low byte, or traps outside the map. -/
theorem storeByteStoresTheLowByte : Obligations.StoreByteStoresTheLowByte := by
  rintro s t a offset addr (rfl : addr = effectiveAddress s a offset)
  refine ⟨fun hmapped htext => ?stores, execSb_busError t, isForm_self rfl⟩
  exact ⟨_, execSb_eq_next.2 ⟨hmapped, not_refused_of_seen_or_outside htext, rfl⟩,
    (State.byteAt_putByte ..).trans (if_pos rfl), s.putByte_sameMemoryBut _ _, fun _ => rfl, ⟨rfl, rfl⟩,
    ⟨rfl, rfl, rfl⟩, rfl, rfl⟩

/-- Settles O50: SW goes on to `putWord` of the register, whose bytes lie at the four addresses and nowhere else. -/
theorem storeWordStoresTheFourBytes : Obligations.StoreWordStoresTheFourBytes := by
  rintro s t a offset addr (rfl : addr = effectiveAddress s a offset) haligned hmapped htext
  have hlies := s.putWord_wordLiesAt (effectiveAddress s a offset) (s.reg t)
  refine ⟨_, execSw_eq_next.2 ⟨isAligned_iff.2 haligned, hmapped, not_refused_of_seen_or_outside htext, rfl⟩,
    loadWord_eq_next_iff_wordLiesAt.2 ⟨hmapped, hlies⟩, fun hbig => ?big, fun hlittle => ?little,
    fun x => s.byteAt_putWord_of_outside _, fun _ => rfl, ⟨rfl, rfl⟩, ⟨rfl, rfl, rfl⟩, rfl, rfl⟩
  case big =>
    obtain ⟨h0, -, -, h3⟩ := (State.wordLiesAt_iff (s := s.putWord _ _) hbig).1 hlies
    exact ⟨h0, h3⟩
  case little =>
    obtain ⟨h0, -, -, h3⟩ := (State.wordLiesAt_iff (s := s.putWord _ _) hlittle).1 hlies
    exact ⟨h0, h3⟩

end Sys2Proof.Machine
end

section
/-! SUPPORT. NOOP and the shifts (spec/45_shift.md): the shifted word as a product or a quotient and bit by bit, and
what SLLV and SRLV do with the amount of their setting. -/

namespace Sys2Proof.Machine

/-! ## The shifted word as a number (R162, R164, R165) -/

theorem shiftLeft_of_lt {n : Nat} (h : n < 32) (v : Word) : shiftLeft v n = v <<< n := if_pos h
theorem shiftLeft_of_le {n : Nat} (h : 32 ≤ n) (v : Word) : shiftLeft v n = 0 := if_neg (Nat.not_lt.2 h)
theorem shiftRight_of_lt {n : Nat} (h : n < 32) (v : Word) : shiftRight v n = v >>> n := if_pos h
theorem shiftRight_of_le {n : Nat} (h : 32 ≤ n) (v : Word) : shiftRight v n = 0 := if_neg (Nat.not_lt.2 h)

theorem shiftLeft_eq_product {n : Nat} (h : n < 32) (v : Word) :
    shiftLeft v n = BitVec.ofNat 32 (v.toNat * 2 ^ n) := by
  apply BitVec.eq_of_toNat_eq
  rw [shiftLeft_of_lt h, BitVec.toNat_shiftLeft, Nat.shiftLeft_eq, BitVec.toNat_ofNat]

theorem shiftRight_eq_quotient {n : Nat} (h : n < 32) (v : Word) :
    shiftRight v n = BitVec.ofNat 32 (v.toNat / 2 ^ n) := by
  rw [shiftRight_of_lt h, ← Nat.shiftRight_eq_div_pow, ← BitVec.toNat_ushiftRight, BitVec.ofNat_toNat,
    BitVec.setWidth_eq]

/-- `Int` division by a positive number rounds down, as the arithmetic shift does. -/
theorem sshiftRight_eq_floor (v : Word) (n : Nat) : v.sshiftRight n = BitVec.ofInt 32 (v.toInt / 2 ^ n) := by
  rw [BitVec.sshiftRight_eq, Int.shiftRight_eq_div_pow]
  norm_cast

/-! ## The shifted word bit by bit (R162, R164, R165) -/

theorem getLsbD_shiftLeft {n k : Nat} (hn : n < 32) (hk : k < 32) (v : Word) :
    (shiftLeft v n).getLsbD k = if k < n then false else v.getLsbD (k - n) := by
  rw [shiftLeft_of_lt hn, BitVec.getLsbD_shiftLeft]
  by_cases hlow : k < n <;> simp [hk, hlow]

theorem getLsbD_shiftRight {n : Nat} (hn : n < 32) (k : Nat) (v : Word) :
    (shiftRight v n).getLsbD k = if k + n < 32 then v.getLsbD (k + n) else false := by
  rw [shiftRight_of_lt hn, BitVec.getLsbD_ushiftRight, Nat.add_comm n k]
  split
  case isTrue => rfl
  case isFalse hout => exact BitVec.getLsbD_of_ge _ _ (Nat.not_lt.1 hout)

theorem getLsbD_sshiftRight {k : Nat} (hk : k < 32) (n : Nat) (v : Word) :
    (v.sshiftRight n).getLsbD k = if k + n < 32 then v.getLsbD (k + n) else v.getLsbD 31 := by
  rw [BitVec.getLsbD_sshiftRight, BitVec.msb_eq_getLsbD_last, Nat.add_comm n k]
  simp [hk]

/-! ## The shifts by a constant -/

section Constant
variable (s : State) (d b : Reg) (h : Shamt)

theorem exec_sll_writesRegister : WritesRegister s (exec (.sll d b h) s) d (shiftLeft (s.reg b) h.toNat) :=
  finishReg_writesRegister ..

theorem exec_srl_writesRegister : WritesRegister s (exec (.srl d b h) s) d (shiftRight (s.reg b) h.toNat) :=
  finishReg_writesRegister ..

theorem exec_sra_writesRegister : WritesRegister s (exec (.sra d b h) s) d ((s.reg b).sshiftRight h.toNat) :=
  finishReg_writesRegister ..

end Constant

/-! ## The amount under each setting (R161, D21, U11) -/

/-- The low five bits are the amount modulo 32. -/
theorem variableAmount_of_low5 {s : State} (h : s.cfg.varShiftAmount = .low5) (v : Word) :
    variableAmount s v = .next (v.toNat % 32) := by
  rw [variableAmount, h]
  simp only [BitVec.extractLsb'_toNat, Nat.shiftRight_zero, Nat.reducePow]

theorem variableAmount_of_full {s : State} (h : s.cfg.varShiftAmount = .full) (v : Word) :
    variableAmount s v = .next v.toNat := by
  rw [variableAmount, h]

theorem variableAmount_of_refuse_lt {s : State} {v : Word} (h : s.cfg.varShiftAmount = .refuse) (hv : v.toNat < 32) :
    variableAmount s v = .next v.toNat := by
  simp only [variableAmount, h, if_pos hv]

theorem variableAmount_of_refuse_le {s : State} {v : Word} (h : s.cfg.varShiftAmount = .refuse) (hv : 32 ≤ v.toNat) :
    variableAmount s v = .refused (.shiftAmount s.pc) := by
  simp only [variableAmount, h, if_neg (Nat.not_lt.2 hv)]

/-! ## SLLV and SRLV by what their amount is -/

/-- The amount is all that can stop the two: given it, each is a register write. -/
theorem variableShifts_writeRegister {s : State} {a : Reg} {n : Nat} (h : variableAmount s (s.reg a) = .next n)
    (d b : Reg) :
    WritesRegister s (exec (.sllv d b a) s) d (shiftLeft (s.reg b) n) ∧
    WritesRegister s (exec (.srlv d b a) s) d (shiftRight (s.reg b) n) := by
  simp only [exec, execSllv, execSrlv, h, andThen_next]
  exact ⟨finishReg_writesRegister .., finishReg_writesRegister ..⟩

theorem variableShifts_refused {s : State} {a : Reg} {x : Refusal} (h : variableAmount s (s.reg a) = .refused x)
    (d b : Reg) : exec (.sllv d b a) s = .refused x ∧ exec (.srlv d b a) s = .refused x := by
  simp only [exec, execSllv, execSrlv, h, andThen_refused, and_self]

/-- An amount below 32 gives the product modulo 2^32 and the quotient. -/
theorem variableShifts_writeProductAndQuotient {s : State} {a : Reg} {n : Nat}
    (h : variableAmount s (s.reg a) = .next n) (hn : n < 32) (d b : Reg) :
    WritesRegister s (exec (.sllv d b a) s) d (BitVec.ofNat 32 ((s.reg b).toNat * 2 ^ n)) ∧
    WritesRegister s (exec (.srlv d b a) s) d (BitVec.ofNat 32 ((s.reg b).toNat / 2 ^ n)) := by
  rw [← shiftLeft_eq_product hn, ← shiftRight_eq_quotient hn]
  exact variableShifts_writeRegister h d b

/-- From 32 on no bit of the register is left. -/
theorem variableShifts_writeZero {s : State} {a : Reg} {n : Nat} (h : variableAmount s (s.reg a) = .next n)
    (hn : 32 ≤ n) (d b : Reg) :
    WritesRegister s (exec (.sllv d b a) s) d 0 ∧ WritesRegister s (exec (.srlv d b a) s) d 0 := by
  obtain ⟨hleft, hright⟩ := variableShifts_writeRegister h d b
  rw [shiftLeft_of_le hn] at hleft
  rw [shiftRight_of_le hn] at hright
  exact ⟨hleft, hright⟩

/-! ## The obligations on NOOP and the shifts -/

/-- Settles O55: the written words are the floors and the product, at every amount of a five-bit field. -/
theorem constantShiftsAreProductsAndFloors : Obligations.ConstantShiftsAreProductsAndFloors := by
  intro s d b h
  rw [← sshiftRight_eq_floor, ← shiftRight_eq_quotient h.isLt, ← shiftLeft_eq_product h.isLt]
  exact ⟨exec_sra_writesRegister s d b h, exec_srl_writesRegister s d b h, exec_sll_writesRegister s d b h⟩

/-- Settles O53: NOOP moves the pair as a jump to `npc + 4` does, and the write of SLL $0, $0, 0 is discarded. -/
theorem noopAdvancesThePairAndIsShiftOfZero : Obligations.NoopAdvancesThePairAndIsShiftOfZero :=
  ⟨fun s => ⟨jumpTo_movesPair s (s.npc + 4), rfl⟩, rfl, rfl, rfl⟩

/-- Settles O54: the three write their shifted word, whose bits are the register's or those that enter; the field s is
one that decoding ignores. -/
theorem constantShiftsWriteTheShiftedWord : Obligations.ConstantShiftsWriteTheShiftedWord := fun s d b h =>
  ⟨⟨_, exec_sll_writesRegister s d b h, fun _ hk => getLsbD_shiftLeft h.isLt hk _⟩, isForm_self rfl,
    fun x => (decode_shift_any x b d h).1,
    ⟨_, exec_srl_writesRegister s d b h, fun k _ => getLsbD_shiftRight h.isLt k _⟩,
    ⟨_, exec_sra_writesRegister s d b h, fun _ hk => getLsbD_sshiftRight hk _ _⟩⟩

/-- Settles O56: the setting decides the amount, and the amount decides how the two end. -/
theorem variableShiftsUnderEachSetting : Obligations.VariableShiftsUnderEachSetting := by
  intro s d b a
  refine ⟨?low, fun hfull hlt => ?full, fun hfull hle => ?fullZero, fun hrefuse hle => ?refuse⟩
  case low =>
    have hmod : (s.reg a).toNat % 32 < 32 := Nat.mod_lt _ (by decide)
    rintro (hlow5 | ⟨hrefuse, hlt⟩)
    · exact variableShifts_writeProductAndQuotient (variableAmount_of_low5 hlow5 _) hmod d b
    · rw [Nat.mod_eq_of_lt hlt]
      exact variableShifts_writeProductAndQuotient (variableAmount_of_refuse_lt hrefuse hlt) hlt d b
  case full => exact variableShifts_writeProductAndQuotient (variableAmount_of_full hfull _) hlt d b
  case fullZero => exact variableShifts_writeZero (variableAmount_of_full hfull _) hle d b
  case refuse => exact variableShifts_refused (variableAmount_of_refuse_le hrefuse hle) d b

end Sys2Proof.Machine
end

section
/-! SUPPORT. Set on less than (spec/46_compare.md): the word of a comparison, and what each of the four instructions
writes. -/

namespace Sys2Proof.Machine

/-! ## The word of a comparison (R170) -/

theorem boolWord_decide (p : Prop) [Decidable p] : boolWord (decide p) = if p then 1 else 0 := by
  by_cases hp : p <;> simp [boolWord, hp]

theorem boolWord_ltSigned (a b : Word) : boolWord (ltSigned a b) = if a.toInt < b.toInt then 1 else 0 :=
  boolWord_decide _

theorem boolWord_ltUnsigned (a b : Word) : boolWord (ltUnsigned a b) = if a.toNat < b.toNat then 1 else 0 :=
  boolWord_decide _

/-- Sign extension keeps the signed number, so the comparison is with the field's own number (R80). -/
theorem boolWord_ltSigned_sext (a : Word) (imm : Half) :
    boolWord (ltSigned a (sext imm)) = if a.toInt < imm.toInt then 1 else 0 := by
  rw [boolWord_ltSigned, toInt_sext]

/-! ## The four instructions as register writes -/

section Registers
variable (s : State) (d a b : Reg)

theorem exec_slt_writesRegister :
    WritesRegister s (exec (.slt d a b) s) d (if (s.reg a).toInt < (s.reg b).toInt then 1 else 0) := by
  rw [← boolWord_ltSigned]
  exact finishReg_writesRegister ..

theorem exec_sltu_writesRegister :
    WritesRegister s (exec (.sltu d a b) s) d (if (s.reg a).toNat < (s.reg b).toNat then 1 else 0) := by
  rw [← boolWord_ltUnsigned]
  exact finishReg_writesRegister ..

end Registers

section Immediate
variable (s : State) (t a : Reg) (imm : Half)

theorem exec_slti_writesRegister :
    WritesRegister s (exec (.slti t a imm) s) t (if (s.reg a).toInt < imm.toInt then 1 else 0) := by
  rw [← boolWord_ltSigned_sext]
  exact finishReg_writesRegister ..

/-- The field is extended by its sign and only then read as an unsigned number (C11). -/
theorem exec_sltiu_writesRegister :
    WritesRegister s (exec (.sltiu t a imm) s) t (if (s.reg a).toNat < (imm.signExtend 32).toNat then 1 else 0) := by
  rw [← boolWord_ltUnsigned]
  exact finishReg_writesRegister ..

end Immediate

/-! ## The obligation on set on less than -/

/-- Settles O57: each of the four is a register write of its comparison's word, and nothing stops them. -/
theorem setOnLessThanWritesOneOrZero : Obligations.SetOnLessThanWritesOneOrZero :=
  ⟨fun s d a b => ⟨exec_slt_writesRegister s d a b, isForm_self rfl, exec_sltu_writesRegister s d a b, isForm_self rfl⟩,
    fun s t a imm => ⟨exec_slti_writesRegister s t a imm, isForm_self rfl, exec_sltiu_writesRegister s t a imm⟩⟩

end Sys2Proof.Machine
end

section
/-! SUPPORT. Exceptions (spec/60_exceptions.md): which test stops a fetch, a load or a store first, the fault column of
R190 for every instruction, and Overflow by the exact signed result. -/

namespace Sys2Proof.Machine

/-! ## The tests of a word access, in their order (R198) -/

section Access
variable {s : State} {kind : Access} {a : Word}

theorem loadAligned_of_misaligned (h : isAligned a = false) :
    loadAligned s kind a = .fault (.addressError kind a s.pc) := by
  simp [loadAligned, h]

theorem loadAligned_of_unmapped (haligned : isAligned a = true) (h : s.mappedWord a = false) :
    loadAligned s kind a = .fault (.busError kind a s.pc) := by
  simp [loadAligned, loadWord, haligned, h]

/-- Behind alignment and map, one byte without a value is enough to stop the access (R50). -/
theorem loadAligned_of_unwritten (haligned : isAligned a = true) (hmapped : s.mappedWord a = true)
    (h : s.byteAt a = none ∨ s.byteAt (a + 1) = none ∨ s.byteAt (a + 2) = none ∨ s.byteAt (a + 3) = none) :
    loadAligned s kind a = .fault (.unwrittenByte kind a s.pc) := by
  rw [loadAligned, if_pos haligned, loadWord, if_pos hmapped]
  split
  next h0 h1 h2 h3 => simp only [h0, h1, h2, h3, reduceCtorEq, or_self] at h
  next => rfl

end Access

theorem isAligned_eq_false_iff {a : Word} : isAligned a = false ↔ a.extractLsb' 0 2 ≠ 0 := by
  rw [← Bool.not_eq_true, isAligned_iff]

/-! ## What a first part that faults stops, and a word that is no instruction (R11, R194) -/

theorem andThen_of_fault {α β : Type} {r : Res α} {f : Fault} (h : r = .fault f) (k : α → Res β) :
    andThen r k = .fault f := by
  rw [h, andThen_fault]

theorem step_of_decode_error {s : State} {w : Word} {e : DecodeError} (hw : fetch s = .next w)
    (he : decode w = .error e) : step s = .fault (.reservedInstruction w s.pc) := by
  simp [step, hw, he]

/-! ## The fault column of the table (R190) -/

/-- A part of a step before an end that always goes on: only the part can fault. -/
theorem fault_of_andThen_next {α β : Type} {r : Res α} {k : α → β} {f : Fault}
    (h : andThen r (fun a => .next (k a)) = .fault f) : r = .fault f := by
  simpa [andThen_eq_fault] using h

theorem mayRaise_of_exec_fault {i : Instr} {s : State} {f : Fault} (h : exec i s = .fault f) : mayRaise s i f := by
  cases i with
  | add | addi | sub => exact (finishSigned_eq_fault.1 h).2
  | addiu | addu | subu | and | or | xor | lui | slt | slti | sltiu | sltu | sll | sra | srl | mfhi | mflo | mult
  | multu | noop => exact nomatch h
  | andi | ori | xori => exact absurd (fault_of_andThen_next h) logicalImm_ne_fault
  | sllv | srlv => exact absurd (fault_of_andThen_next h) variableAmount_ne_fault
  | beq | bgez | bgezal | bgtz | blez | bltz | bltzal | bne | j | jal | jr => exact absurd h controlTransfer_ne_fault
  | div | divu =>
    simp only [exec, execDiv, execDivu] at h
    split at h
    · exact absurd h finishUndefinedDivision_ne_fault
    · exact nomatch h
  | lb =>
    rcases loadByte_eq_fault.1 (fault_of_andThen_next h) with ⟨-, hbus⟩ | ⟨-, -, hunwritten⟩
    exacts [.inl hbus, .inr hunwritten]
  | lw =>
    rcases loadAligned_fault_cases (fault_of_andThen_next h) with ⟨-, haddress⟩ | ⟨-, -, hbus⟩ | ⟨-, -, hunwritten⟩
    exacts [.inl haddress, .inr (.inl hbus), .inr (.inr hunwritten)]
  | sb => exact (storeByte_eq_fault.1 (fault_of_andThen_next h)).2
  | sw =>
    rcases storeAligned_eq_fault.1 (fault_of_andThen_next h) with ⟨-, haddress⟩ | ⟨-, -, hbus⟩
    exacts [.inl haddress, .inr hbus]
  | syscall =>
    obtain ⟨result, -, hf⟩ := execSyscall_eq_fault.1 h
    exact ⟨result, hf⟩

/-! ## Overflow (R191) -/

/-- `finishSigned` raises Overflow with its own `pc` and where the exact result does not fit. -/
theorem finishSigned_eq_overflow_iff {s : State} {d : Reg} {e : Int} {p : Word} :
    finishSigned s d e = .fault (.overflow p) ↔ p = s.pc ∧ ¬ (-2 ^ 31 ≤ e ∧ e ≤ 2 ^ 31 - 1) := by
  rw [finishSigned_eq_fault, signedOverflow_eq_true_iff, Fault.overflow.injEq, and_comm]

/-! ## The obligations on exceptions -/

/-- Settles O20: what each instruction ends with can raise the faults of its row only. -/
theorem instructionsRaiseOnlyTheirTabledFaults : Obligations.InstructionsRaiseOnlyTheirTabledFaults :=
  fun _ _ _ => mayRaise_of_exec_fault

/-- Settles O19: the rows that list Overflow are those of ADD, ADDI and SUB, which end in `finishSigned` of their exact
result. -/
theorem overflowIsRaisedExactlyWhenTheSignedResultDoesNotFit :
    Obligations.OverflowIsRaisedExactlyWhenTheSignedResultDoesNotFit := by
  refine fun i s p => ⟨fun h => ?raised, ?fits⟩
  case raised =>
    cases i with
    | add d a b =>
      obtain ⟨hp, hout⟩ := finishSigned_eq_overflow_iff.1 h
      exact ⟨hp, .inl ⟨d, a, b, rfl, hout⟩⟩
    | addi t a imm =>
      rw [exec, execAddi, toInt_sext] at h
      obtain ⟨hp, hout⟩ := finishSigned_eq_overflow_iff.1 h
      exact ⟨hp, .inr (.inl ⟨t, a, imm, rfl, hout⟩)⟩
    | sub d a b =>
      obtain ⟨hp, hout⟩ := finishSigned_eq_overflow_iff.1 h
      exact ⟨hp, .inr (.inr ⟨d, a, b, rfl, hout⟩)⟩
    | _ => exact absurd (mayRaise_of_exec_fault h) (by simp [mayRaise])
  case fits =>
    rintro ⟨rfl, ⟨d, a, b, rfl, hout⟩ | ⟨t, a, imm, rfl, hout⟩ | ⟨d, a, b, rfl, hout⟩⟩
    · exact finishSigned_overflows s d hout
    · rw [← toInt_sext] at hout
      exact finishSigned_overflows s t hout
    · exact finishSigned_overflows s d hout

/-- Settles O9: the fetch is an aligned word access at `pc`, and a word that matches no row does not decode. -/
theorem fetchStopsInPriorityOrder : Obligations.FetchStopsInPriorityOrder := by
  refine fun s => ⟨fun h => ?misaligned, fun haligned h => ?unmapped, fun haligned hmapped h => ?unwritten,
    fun b0 b1 b2 b3 haligned hmapped h0 h1 h2 h3 hnone => ?reserved⟩
  case misaligned => exact andThen_of_fault (loadAligned_of_misaligned h) _
  case unmapped => exact andThen_of_fault (loadAligned_of_unmapped haligned h) _
  case unwritten => exact andThen_of_fault (loadAligned_of_unwritten haligned hmapped h) _
  case reserved =>
    obtain ⟨-, hrefused⟩ := decodingIsMaskAndMatch (wordOfBytes s.cfg.byteOrder b0 b1 b2 b3)
    obtain ⟨e, he⟩ := hrefused.2 hnone
    have hfetch : fetch s = .next (wordOfBytes s.cfg.byteOrder b0 b1 b2 b3) :=
      loadAligned_eq_next.2 ⟨haligned, loadWord_eq_next.2 ⟨hmapped, b0, b1, b2, b3, ⟨h0, h1, h2, h3⟩, rfl⟩⟩
    exact step_of_decode_error hfetch he

/-- Settles O51: each of the four starts with its access, whose fault ends the instruction. -/
theorem dataAccessesTrapInPriorityOrder : Obligations.DataAccessesTrapInPriorityOrder := by
  rintro s t a offset addr (rfl : addr = effectiveAddress s a offset)
  refine ⟨fun h => ?misaligned, fun haligned h => ?unmappedWord, fun h => ?unmappedByte,
    fun hmapped h => ?unwrittenByte, fun haligned hmapped h => ?unwrittenWord⟩
  case misaligned =>
    have hmisaligned := isAligned_eq_false_iff.2 h
    exact ⟨andThen_of_fault (loadAligned_of_misaligned hmisaligned) _,
      andThen_of_fault (storeAligned_eq_fault.2 (.inl ⟨hmisaligned, rfl⟩)) _⟩
  case unmappedWord =>
    have haligned := isAligned_iff.2 haligned
    exact ⟨andThen_of_fault (loadAligned_of_unmapped haligned h) _,
      andThen_of_fault (storeAligned_eq_fault.2 (.inr ⟨haligned, h, rfl⟩)) _⟩
  case unmappedByte =>
    exact ⟨andThen_of_fault (loadByte_eq_fault.2 (.inl ⟨h, rfl⟩)) _, execSb_busError t h⟩
  case unwrittenByte => exact andThen_of_fault (loadByte_eq_fault.2 (.inr ⟨hmapped, h, rfl⟩)) _
  case unwrittenWord =>
    exact andThen_of_fault (loadAligned_of_unwritten (isAligned_iff.2 haligned) hmapped h) _

end Sys2Proof.Machine
end

section
/-! SUPPORT. The system call (spec/47_system.md R180): the last of the environment's writes to a register or a byte is
the one that stands, and what a resumed SYSCALL leaves is a function of what the environment sees and of the map. -/

namespace Sys2Proof.Machine

/-! ## What is left of the environment after its answer (log 5) -/

theorem State.envRest_ofState {s : State} {k : Nat} (h : s.env = .ofState k) : s.envRest = .ofState k := by
  rw [State.envRest, h]

theorem State.envRest_script_nil {s : State} {after : EnvAnswer} (h : s.env = .script [] after) :
    s.envRest = .script [] after := by
  rw [State.envRest, h]

theorem State.envRest_script_cons {s : State} {a after : EnvAnswer} {rest : List EnvAnswer}
    (h : s.env = .script (a :: rest) after) : s.envRest = .script rest after := by
  rw [State.envRest, h]

/-! ## Writes of the same register or byte: the last one stands -/

theorem State.reg_setRegs_of_last (s : State) (first : List (Reg × Word)) {last : List (Reg × Word)} {r : Reg}
    (v : Word) (h : ∀ x ∈ last, x.1 ≠ r) :
    (s.setRegs (first ++ (r, v) :: last)).reg r = if r = 0 then 0 else v := by
  by_cases hr : r = 0
  · rw [if_pos hr, hr, State.reg_zero]
  · rw [State.setRegs_append, State.setRegs, State.reg_setRegs_of_not_named _ h, State.reg_setReg, if_pos ⟨rfl, hr⟩,
      if_neg hr]

theorem State.mapped_putBytes (s : State) (l : List (Word × Byte)) (a : Word) :
    (s.putBytes l).mapped a = s.mapped a := by
  obtain ⟨-, -, -, -, -, hcfg, -⟩ := State.putBytes_keeps s l
  rw [State.mapped, State.mapped, hcfg]

/-- No write reaches a byte outside `MEM_MAP` (R42, log 6). -/
theorem State.byteAt_putBytes_of_unmapped {s : State} {a : Word} (h : s.mapped a = false) (l : List (Word × Byte)) :
    (s.putBytes l).byteAt a = s.byteAt a := by
  induction l generalizing s with
  | nil => rfl
  | cons c rest ih =>
    rw [State.putBytes]
    split
    next hmapped =>
      have hne : a ≠ c.1 := by
        rintro rfl
        exact nomatch h.symm.trans hmapped
      exact (ih (s := s.putByte c.1 c.2) h).trans ((State.byteAt_putByte ..).trans (if_neg hne))
    next => exact ih h

theorem State.byteAt_putBytes_of_last (s : State) (first : List (Word × Byte)) {last : List (Word × Byte)} {a : Word}
    (b : Byte) (h : ∀ x ∈ last, x.1 ≠ a) :
    (s.putBytes (first ++ (a, b) :: last)).byteAt a = if s.mapped a = true then some b else s.byteAt a := by
  split
  next hmapped =>
    rw [State.putBytes_append, State.putBytes, State.byteAt_putBytes_of_not_named _ h, State.mapped_putBytes,
      if_pos hmapped, State.byteAt_putByte, if_pos rfl]
  next hmapped => exact State.byteAt_putBytes_of_unmapped (Bool.eq_false_of_not_eq_true hmapped) _

/-! ## What the writes depend on -/

/-- The register file after the environment's writes depends on the register file only. -/
theorem State.setRegs_regs_congr {s u : State} (h : s.regs = u.regs) (l : List (Reg × Word)) :
    (s.setRegs l).regs = (u.setRegs l).regs := by
  induction l generalizing s u with
  | nil => exact h
  | cons c rest ih =>
    refine ih ?_
    unfold State.setReg
    split
    · exact h
    · exact congrArg (·.setIfInBounds (c.1.toNat - 1) c.2) h

/-- Memory after the environment's writes depends on memory and `MEM_MAP` only. -/
theorem State.putBytes_mem_congr {s u : State} (hmem : s.mem = u.mem) (hmap : s.cfg.memMap = u.cfg.memMap)
    (l : List (Word × Byte)) : (s.putBytes l).mem = (u.putBytes l).mem := by
  induction l generalizing s u with
  | nil => exact hmem
  | cons c rest ih =>
    have hmapped : s.mapped c.1 = u.mapped c.1 := by rw [State.mapped, State.mapped, hmap]
    rw [State.putBytes, State.putBytes, hmapped]
    split
    · exact ih (congrArg (·.write c.1.toNat c.2) hmem) hmap
    · exact ih hmem hmap

/-- Memory after a resumed SYSCALL: the register writes before take no part. -/
theorem resumeSyscall_mem (s : State) (c : EnvChange) : (resumeSyscall s c).mem = (s.putBytes c.mem).mem := by
  obtain ⟨-, -, -, -, hmem, hcfg, -⟩ := State.setRegs_keeps s c.regs
  have hregs : ((s.setRegs c.regs).setHiLo (c.hi.getD s.hi) (c.lo.getD s.lo)).mem = s.mem := hmem
  exact State.putBytes_mem_congr hregs (congrArg Config.memMap hcfg) c.mem

theorem resumeSyscall_byteAt (s : State) (c : EnvChange) (a : Word) :
    (resumeSyscall s c).byteAt a = (s.putBytes c.mem).byteAt a :=
  State.byteAt_congr (resumeSyscall_mem s c) a

/-- The register file after a resumed SYSCALL: the memory writes take no part. -/
theorem resumeSyscall_regs (s : State) (c : EnvChange) : (resumeSyscall s c).regs = (s.setRegs c.regs).regs :=
  (State.putBytes_keeps _ c.mem).1

/-- Two states that agree in what the environment sees and in `MEM_MAP` agree in it after the same changes. -/
theorem resumeSyscall_view_congr {s u : State} (hview : s.view = u.view) (hmap : s.cfg.memMap = u.cfg.memMap)
    (c : EnvChange) : (resumeSyscall s c).view = (resumeSyscall u c).view := by
  obtain ⟨hregs, hhi, hlo, -, hnpc, hmem⟩ := EnvView.mk.inj hview
  obtain ⟨hspc, hsnpc, hshi, hslo, -⟩ := resumeSyscall_keeps s c
  obtain ⟨hupc, hunpc, huhi, hulo, -⟩ := resumeSyscall_keeps u c
  rw [State.view, State.view, hspc, hsnpc, hshi, hslo, hupc, hunpc, huhi, hulo, hhi, hlo, hnpc, resumeSyscall_regs,
    resumeSyscall_regs, State.setRegs_regs_congr hregs, resumeSyscall_mem, resumeSyscall_mem,
    State.putBytes_mem_congr hmem hmap]

/-! ## SYSCALL by the answer it gets -/

theorem exec_syscall_of_resume {s : State} {c : EnvChange} (h : s.envAnswer = .resume c) :
    exec .syscall s = .next (resumeSyscall s c) :=
  execSyscall_eq_next.2 ⟨c, h, rfl⟩

theorem exec_syscall_of_halt {s : State} {result : List Word} (h : s.envAnswer = .halt result) :
    exec .syscall s = .fault (.syscall s.pc result) :=
  execSyscall_eq_fault.2 ⟨result, h, rfl⟩

/-- Only SYSCALL's row of the table lists the fault that is a successful end (R190, R192, R228). -/
theorem runEnd_eq_success_iff_of_mayRaise {s : State} {i : Instr} {f : Fault} (h : mayRaise s i f) :
    f.runEnd = .success ↔ i = .syscall := by
  cases i with
  | syscall =>
    obtain ⟨result, rfl⟩ := h
    exact iff_of_true rfl rfl
  | add | addi | sub | sb =>
    obtain rfl : f = _ := h
    exact iff_of_false nofun nofun
  | lb | sw =>
    rcases h with rfl | rfl
    all_goals exact iff_of_false nofun nofun
  | lw =>
    rcases h with rfl | rfl | rfl
    all_goals exact iff_of_false nofun nofun
  | _ => exact False.elim h

/-! ## The obligations on the system call -/

/-- Settles O58: an absent environment answers Halt, and the table of R190 has one row with a successful end. -/
theorem syscallHaltsWithTheResultAttached : Obligations.SyscallHaltsWithTheResultAttached := fun _ =>
  ⟨fun h => exec_syscall_of_halt (State.envAnswer_absent h), fun _ => exec_syscall_of_halt,
    fun _ _ h => runEnd_eq_success_iff_of_mayRaise (mayRaise_of_exec_fault h)⟩

/-- Settles O59: the changes are applied in order, so that the last write of a register or byte stands. -/
theorem syscallResumesAfterTheInstruction : Obligations.SyscallResumesAfterTheInstruction := by
  intro s c h
  obtain ⟨hpc, hnpc, hhi, hlo, hcfg, henv, hdraws⟩ := resumeSyscall_keeps s c
  refine ⟨_, exec_syscall_of_resume h, ⟨hpc, hnpc⟩, hhi, hlo, fun r hr => ?regKept,
    fun first last r v hc hr => ?regLast, fun a ha => ?byteKept, fun first last a b hc ha => ?byteLast, hcfg, hdraws,
    henv⟩
  case regKept => rw [resumeSyscall_reg, State.reg_setRegs_of_not_named s hr]
  case regLast => rw [resumeSyscall_reg, hc, State.reg_setRegs_of_last s first v hr]
  case byteKept => rw [resumeSyscall_byteAt, State.byteAt_putBytes_of_not_named s ha]
  case byteLast => rw [resumeSyscall_byteAt, hc, State.byteAt_putBytes_of_last s first b ha]

/-- Settles O60: a function of the view gives both states one answer; a script that resumes is what is left of it. -/
theorem environmentsAnswerAsSupplied : Obligations.EnvironmentsAnswerAsSupplied := by
  refine ⟨fun s u k hs hu hview hmap => ?ofState, fun s c h => ?always, fun s c rest after h => ?script⟩
  case ofState =>
    have hanswer : u.envAnswer = s.envAnswer := by
      rw [State.envAnswer_ofState hu, State.envAnswer_ofState hs, hview]
    have hpc : u.pc = s.pc := (congrArg EnvView.pc hview).symm
    cases h : s.envAnswer with
    | halt result => exact .inl ⟨result, exec_syscall_of_halt h, hpc ▸ exec_syscall_of_halt (hanswer.trans h)⟩
    | resume c =>
      exact .inr ⟨_, _, exec_syscall_of_resume h, exec_syscall_of_resume (hanswer.trans h),
        (resumeSyscall_view_congr hview hmap c).symm, State.envRest_ofState hs, State.envRest_ofState hu⟩
  case always =>
    exact ⟨_, exec_syscall_of_resume (State.envAnswer_script_nil h), State.envRest_script_nil h⟩
  case script =>
    exact ⟨_, exec_syscall_of_resume (State.envAnswer_script_cons h), State.envRest_script_cons h⟩

end Sys2Proof.Machine
end

section
/-! SUPPORT. Launch and reset (spec/70_reset_and_hazards.md R220, R221): the register a launch's vector gives, what
R220's demands establish, and that reset meets them. -/

namespace Sys2Proof.Machine

/-- Register r lies at index r - 1 (R20). -/
theorem State.regs_getElem?_eq_reg (s : State) {r : Reg} (hr : r ≠ 0) : s.regs[r.toNat - 1]? = some (s.reg r) := by
  have hindex : r.toNat - 1 < 31 := by omega
  rw [State.reg, if_neg hr, Vector.getElem?_eq_getElem hindex, Option.getD_some]

/-- The launch that supplies nothing leaves every register 0 (log 3). -/
theorem State.launch_bare_reg (c : Config) (r : Reg) : (State.launch (Launch.bare c)).reg r = 0 := by
  by_cases hr : r = 0
  · rw [hr, State.reg_zero]
  · have hindex : r.toNat - 1 < 31 := by omega
    have hsupplied := State.regs_getElem?_eq_reg (State.launch (Launch.bare c)) hr
    rw [State.launch_regs, Launch.bare, Vector.getElem?_replicate, if_pos hindex] at hsupplied
    exact (Option.some.inj hsupplied).symm

theorem State.launch_inv {l : Launch} (hwf : l.mem.WF) (hmap : ∀ c ∈ l.mem, inRegions l.cfg.memMap c.1 = true) :
    (State.launch l).Inv :=
  ⟨hwf, hmap⟩

theorem Memory.nil_wf : Memory.WF [] := ⟨.nil, nofun⟩

/-- Every address holds memory under reset's parameters (log 2). -/
theorem inRegions_initial_memMap {a : Nat} (ha : a < 2 ^ 32) : inRegions Config.initial.memMap a = true := by
  simp only [Config.initial, Config.decided, inRegions, List.any_cons, List.any_nil, Bool.or_false, decide_eq_true_eq]
  omega

theorem Launch.bare_initial_valid : (Launch.bare Config.initial).Valid :=
  ⟨by decide, by decide, fun _ ha _ => inRegions_initial_memMap ha, Memory.nil_wf, nofun⟩

/-! ## The obligations on launch and reset -/

/-- Settles O12: the invariant says of the state what is asked of the launch's memory, and reset's is empty. -/
theorem resetMeetsTheMemoryInvariant : Obligations.ResetMeetsTheMemoryInvariant :=
  ⟨State.launch_inv Memory.nil_wf nofun, fun _ => State.launch_inv⟩

/-- Settles O10: the launch's fields are the state's; alignment of `npc` and the map at `pc` follow from R220's
demands. -/
theorem launchStateIsAsTheRulesSay : Obligations.LaunchStateIsAsTheRulesSay := by
  refine ⟨fun l => ?launched, fun l hvalid => ?valid, fun c r => ?bare, rfl, Launch.bare_initial_valid⟩
  case launched => exact ⟨rfl, rfl, rfl, rfl, rfl, rfl, fun r => State.regs_getElem?_eq_reg (State.launch l), rfl, rfl⟩
  case valid =>
    obtain ⟨haligned, htext, hinside, hwf, hmap⟩ := hvalid
    exact ⟨⟨haligned, isAligned_add haligned rfl⟩, htext, hinside _ l.cfg.resetPc.isLt htext, .inr rfl,
      State.launch_inv hwf hmap⟩
  case bare => exact ⟨State.launch_bare_reg c r, rfl, rfl, rfl⟩

end Sys2Proof.Machine
end
